-- ==== Sys2Proof/Word.lean ====
section
/-! DEFINITION. The two word types the manual uses: a byte on a serial line or on the host port, and a 16-bit word of
the configuration image (R195). -/

namespace Sys2Proof

/-- A byte on a line position, on the host port or in a name, and a character code (R1, R188, R193). -/
abbrev Byte := BitVec 8

/-- A word of the configuration image (R195). -/
abbrev Word := BitVec 16

end Sys2Proof
end

