-- ==== Sys2Proof/Syntax.lean ====
section
/-! DEFINITION. The commands of the 612: one constructor for each row of spec/opcode_table.json, in the table's order.

An order's row carries no operand of its own. Its operands are the fields of the frame in the HELD inbound buffer whose
frame completed earlier, and the row is the event of taking that frame (R178, R179). A key's row names the line; the
key is at the head of that session's key FIFO (R64). -/

namespace Sys2Proof

/-- The two setting channels (scope, section 4.1). -/
inductive Chan where
  | a
  | b
deriving DecidableEq, Repr

/-- A command: one step of the 612. A line position is written as its number, 0 to 39 (R44). -/
inductive Instr where
  | powerStart
  | imageLoadDone
  | inboundByte (b : Byte)
  | gapExpiry
  | outboundAck
  | directionChange
  | unknownOrder
  | status
  | lineRole
  | lineSet
  | lineReset
  | lineStatus
  | lineTest
  | signOn
  | signOff
  | terminalMessage
  | displayMode
  | storyCreate
  | storyAppend
  | storyRead
  | storyInfo
  | directory
  | move
  | priority
  | kill
  | unkill
  | purge
  | fit
  | setStory
  | setPage
  | withdraw
  | cancel
  | formatLoad
  | widthLoad
  | basketName
  | profileLoad
  | wireAccept
  | setterParameters
  | imageRead
  | imageReadDone
  | imageWrite
  | imageWriteDone
  | restart
  | restartEvent
  /-- A frame's first stop bit is sampled: the data bits as a byte, the parity bit and the stop bit (true is marking). -/
  | characterReceived (line : Nat) (data : Byte) (parityBit stopBit : Bool)
  | breakDetected (line : Nat)
  | idleTimerExpiry (line : Nat)
  | txFrameEnd (line : Nat)
  | blankTimerExpiry (line : Nat)
  | blinkTimerExpiry (line : Nat)
  | textKey (line : Nat)
  | unknownKey (line : Nat)
  | keyLeft (line : Nat)
  | keyRight (line : Nat)
  | keyWordLeft (line : Nat)
  | keyWordRight (line : Nat)
  | keyLineStart (line : Nat)
  | keyLineEnd (line : Nat)
  | keyUp (line : Nat)
  | keyDown (line : Nat)
  | keyPageFwd (line : Nat)
  | keyPageBack (line : Nat)
  | keyDelChar (line : Nat)
  | keyDelWord (line : Nat)
  | keyInsertToggle (line : Nat)
  | keyMark (line : Nat)
  | keyNew (line : Nat)
  | keyFetch (line : Nat)
  | keyReview (line : Nat)
  | keyRelease (line : Nat)
  | keySend (line : Nat)
  | keyKill (line : Nat)
  | keySet (line : Nat)
  | keyFit (line : Nat)
  | keyPriority (line : Nat)
  | keyNextBasket (line : Nat)
  | keyPrevBasket (line : Nat)
  | keyAck (line : Nat)
  | keyOff (line : Nat)
  | wireStartByte (line : Nat)
  | wireEndByte (line : Nat)
  | intakeCharacter (line : Nat)
  | intakeBreak (line : Nat)
  | intakeIdle (line : Nat)
  | ready (ch : Chan)
  | notReady (ch : Chan)
  | fault (ch : Chan)
  | dwellExpiry (ch : Chan)
  | stagingDone (ch : Chan)
  | stallTimerExpiry (ch : Chan)
  | fitComplete
  | lineSampledMarking (line : Nat)
  | startBitSampled (line : Nat)
  | falseStart (line : Nat)
deriving DecidableEq, Repr

end Sys2Proof
end

