-- ==== Sys2Proof/Decode.lean ====
section
/-! DEFINITION. The command a word spells by the bits of spec/opcode_table.json. No row of the table gives bits (every
row's list of fields is empty), so no word spells a command. -/

namespace Sys2Proof

/-- The command that the bits `w` spell. The table gives no row any bits, so the answer is none. -/
def decodeTableWord (_nbits _w : Nat) : Option Instr := none

end Sys2Proof
end

