-- ==== Sys2Proof/Config.lean ====
section
/-! DEFINITION. The values the manual leaves open. Each is an opaque constant: nothing in Lean can evaluate it, so a
statement that holds of the model holds whatever the value is. Each is named in the assumption log. -/

namespace Sys2Proof.Config

/-- DESIGN CHOICE (log 8). Whether a receive pin is marking at a moment no sampling event of R51 fixes it (a receiver in
WAIT-MARK or ASSEMBLE, or in HUNT after a framing error in a frame that is not all spacing). Applied to the state's counter of
free values and the line. -/
opaque freeMarking : Nat → Nat → Bool

/-- DESIGN CHOICE (log 7). How many words of an interrupted IMAGE WRITE hold their new value after a power start (R201). -/
opaque freeWordsWritten : Nat → Nat

/-- DESIGN CHOICE (log 20). The two bytes a frame carries for a number above 65,535; R189 gives no encoding for it. -/
opaque wideNumber16 : Nat → Word

/-- DESIGN CHOICE (log 20). The byte a frame carries for a number above 255; R189 gives no encoding for it. -/
opaque wideNumber8 : Nat → Byte

/-- DESIGN CHOICE (log 21). The bytes that say which kind a story's origin is in STORY INFO (0 TERMINAL, 1 WIRE, 2 ORDER),
before the parts that kind has; R189 gives the kind no encoding. -/
opaque storyInfoOriginKind : Nat → List Byte

/-- DESIGN CHOICE (log 21). The bytes, if any, that stand after the parts of an origin for the parts its kind does not
have. Applied to the kind. -/
opaque storyInfoOriginRest : Nat → List Byte

/-- DESIGN CHOICE (log 21). The bytes, if any, before the entries of a list in STORY INFO (0 the reviewers, 1 the route
history); R189 and R190 give lists no framing. Applied to the list and its length. -/
opaque storyInfoListHead : Nat → Nat → List Byte

/-- DESIGN CHOICE (log 21). The bytes, if any, after the entries of a list in STORY INFO. Applied to the list and its
length. -/
opaque storyInfoListTail : Nat → Nat → List Byte

/-- DESIGN CHOICE (log 21). The bytes, if any, STORY INFO gives for the chain's block numbers; R189 gives no encoding. -/
opaque storyInfoChain : List Nat → List Byte

/-- DESIGN CHOICE (log 22). What a notice carries in the bytes of an absent field; R189 fixes it for a reply only. -/
opaque noticeAbsent : Byte

/-- DESIGN CHOICE (log 23). The two bytes LINE END carries for a right quad below 0, that of an empty line whose indent
exceeds the measure (R136); R194 gives no encoding for it. Applied to the quad. -/
opaque negativeQuad : Int → Word

/-- DESIGN CHOICE (log 24). Which of the numbers of cells that fit the measure a line takes of its first word, where that
word starts with fixed spaces, no run ending with a character fits and its first character is no wider than the measure;
R139 and R140 state no result. Applied to the measure and the word's length. -/
opaque freeSplit : Nat → Nat → Nat

end Sys2Proof.Config
end

