-- ==== Sys2Proof/Machine/State.lean ====
section
/-! DEFINITION. The state of the 612 as plain data: every piece of state the manual gives a block, the queue of waiting
commands, and the state after power start (State.reset). -/

namespace Sys2Proof.Machine

/-! ## Numbers that name things -/

/-- A line position, L0 to L39 (R44). -/
abbrev LineNo := Fin 40
/-- A story record by its place in the directory: story number less 1, for numbers 1 to 512 (R14). -/
abbrev Sid := Fin 512
/-- A basket, 0 (WIRE) to 23 (SPIKE) (R25). -/
abbrev BasketNo := Fin 24
/-- A rights profile, 0 to 15 (R37). -/
abbrev ProfileNo := Fin 16
/-- A format record, 0 to 31 (R122). -/
abbrev FormatNo := Fin 32
/-- A set of baskets 0 to 22: bit b is set for basket b (R37, R189). -/
abbrev Mask := BitVec 23
/-- A set of service letters: bit 0 for A up to bit 25 for Z (R109, R189). -/
abbrev AcceptSet := BitVec 26

/-! ## Copy store and story directory (chapter 1) -/

/-- A line's mode (R2, R134). -/
inductive Mode where
  | justify
  | left
  | right
  | center
deriving DecidableEq, Repr

/-- One cell of story text (R1, R2). -/
inductive Cell where
  /-- A character of code 0x21 to 0x9F (R1). -/
  | char (code : Byte)
  /-- A word space, code 0x20 (R1). -/
  | space
  | para
  | line
  | font (f : Nat)
  | size (halfPoints : Nat)
  | lead (halfPoints : Nat)
  | mode (m : Mode)
  | en
  | em
  | thin
  | hard
  | dhyph
  | noteOn
  | noteOff
deriving DecidableEq, Repr

/-- A story's priority; FLASH is above URGENT above ROUTINE (scope, section 4.1). -/
inductive Prio where
  | routine
  | urgent
  | flash
deriving DecidableEq, Repr

/-- Where a story came from (R14). -/
inductive Origin where
  | terminal (line : LineNo)
  | wire (line : LineNo) (service : Byte) (item : Nat)
  | order
deriving DecidableEq, Repr

/-- The state of a story with the fields that belong to that state (R14, R15). FREE is a record with no story. -/
inductive Place where
  | intake
  | opn (basket : BasketNo)
  | held (line : LineNo)
  | queued (ch : Chan) (job : Nat)
  | setting (ch : Chan) (job : Nat)
  /-- KILLED, its current basket SPIKE. -/
  | killed
deriving DecidableEq, Repr

/-- Who makes a move or queues a job: a line by its key, or an order of the host (none) (R14, R158). -/
abbrev Mover := Option LineNo

/-- One entry of a route history (R14, R30). -/
structure Move where
  source : BasketNo
  target : BasketNo
  mover : Mover
deriving DecidableEq, Repr

/-- A story's depth values (R14, R148). -/
structure Depth where
  halfPoints : Nat
  lines : Nat
  stale : Bool
  loose : Nat
  overlong : Nat
  missing : Nat
deriving DecidableEq, Repr

/-- The fields of a record that is not FREE (R14). -/
structure Story where
  slug : List Byte
  prio : Prio
  origin : Origin
  home : BasketNo
  place : Place
  /-- 0 to 4 lines, in the order they joined (R16). -/
  reviewers : List LineNo
  format : FormatNo
  /-- The block numbers of the text, in order (R3). -/
  chain : List Nat
  /-- The cell count the directory keeps (R21). -/
  count : Nat
  depth : Option Depth
  setCount : Nat
  /-- 0 to 4 moves, newest first (R22). -/
  route : List Move
  truncated : Bool
  overset : Bool
deriving DecidableEq, Repr

/-- A story record: its generation, and its story unless it is FREE (R14, R20). -/
structure Rec where
  gen : Nat
  story : Option Story
deriving DecidableEq, Repr

/-- A story key, number and generation (R18). -/
structure Key where
  sid : Sid
  gen : Nat
deriving DecidableEq, Repr

/-- A chained block's number and its cells, 1 to 64 of them (R3). -/
abbrev Block := Nat × List Cell

/-! ## Baskets and profiles (chapter 2) -/

/-- A basket's name and its stories from head to tail (R25, R26). -/
structure Basket where
  name : List Byte
  stories : List Sid
deriving DecidableEq, Repr

/-- A rights profile (R37). -/
structure Profile where
  /-- The 4-digit code as its number, 0 to 9999. -/
  code : Nat
  name : List Byte
  take : Mask
  send : Mask
  watch : Mask
  mayKill : Bool
  maySet : Bool
  mayReviewAny : Bool
  defaultBasket : BasketNo
  defaultChannel : Chan
deriving DecidableEq, Repr

/-! ## Line positions (chapter 3) -/

/-- The use of a line position (R45). -/
inductive Role where
  | idle
  | terminal
  | wire
  | setter
deriving DecidableEq, Repr

inductive Parity where
  | none
  | even
  | odd
deriving DecidableEq, Repr

/-- A line's rate and character framing (R44, R49). -/
structure Settings where
  /-- The prescaler P, 1 or 8. -/
  p : Nat
  /-- The divisor D, 0 to 4095. -/
  d : Nat
  /-- 7 or 8. -/
  dataBits : Nat
  parity : Parity
  /-- 1 or 2. -/
  stopBits : Nat
deriving DecidableEq, Repr

/-- The receiver's state (R51). -/
inductive Rx where
  | hunt
  | assemble
  | brk
  | waitMark
deriving DecidableEq, Repr

/-- The single status a received character carries (R51). -/
inductive CharStatus where
  | overrun
  | framing
  | parity
  | good
deriving DecidableEq, Repr

/-- The receive slot's contents (R52). -/
structure RxChar where
  byte : Byte
  status : CharStatus
deriving DecidableEq, Repr

/-- The byte in the shift stage, with the settings its frame is sent under (R49, R56). -/
structure TxFrame where
  byte : Byte
  settings : Settings
deriving DecidableEq, Repr

/-! ## Terminal sessions (chapters 4 and 5) -/

/-- A session's state (R63). -/
inductive SessState where
  | dark
  | directory
  | edit
  | review
deriving DecidableEq, Repr

/-- A session's display mode (R80). -/
inductive DispMode where
  | normal
  | inverse
  | blank
  | test
deriving DecidableEq, Repr

/-- The modes a screen mode code carries (R63, R193). -/
inductive ModeCode where
  | normal
  | inverse
  | blank
deriving DecidableEq, Repr

/-- One cell of the screen image: a code and two attributes (R71). -/
structure SCell where
  code : Byte
  inverse : Bool
  blink : Bool
deriving DecidableEq, Repr

/-- A row of the screen image: 80 cells (R71). -/
abbrev Row := List SCell

/-- The copy of a row that is being sent: its cells, or in TEST 80 solid blocks (R78, R80). -/
inductive RowCopy where
  | cells (r : Row)
  | solid
deriving DecidableEq, Repr

/-- The row in flight: its number, its copy, how many of its bytes have been placed, and its changed flag (R63, R76). -/
structure Flight where
  row : Fin 24
  copy : RowCopy
  placed : Nat
  changed : Bool
deriving DecidableEq, Repr

/-- The other codes of more than one byte a session sends (R77). -/
inductive CodeKind where
  | mode
  | cursor
deriving DecidableEq, Repr

/-- A mode or cursor-address code in progress: its bytes still to be placed, and whether it was asked for again since it
began (R77). -/
structure CodeOut where
  kind : CodeKind
  rest : List Byte
  again : Bool
deriving DecidableEq, Repr

/-- A session's alert (R40). -/
structure Alert where
  basket : BasketNo
  sid : Sid
  prio : Prio
deriving DecidableEq, Repr

/-- A session's view: the basket shown, the view top and the highlight (R74, R75). -/
structure View where
  basket : Option BasketNo
  top : Nat
  highlight : Nat
deriving DecidableEq, Repr

/-- An entry in progress, with the characters typed so far (R88, R97, R98, R103, R107). -/
inductive Entry where
  | mark (typed : List Byte)
  | slug (typed : List Byte)
  | send (typed : List Byte)
  | priority
deriving DecidableEq, Repr

/-- The edit state of a session in EDIT or REVIEW (R88). -/
structure Edit where
  key : Key
  cursor : Nat
  top : Nat
  /-- The text mode: true in OVERSTRIKE. -/
  overstrike : Bool
  entry : Option Entry
deriving DecidableEq, Repr

/-- A terminal session (R63), with its edit state (R88). -/
structure Session where
  state : SessState
  profile : Option ProfileNo
  /-- The code buffer: 0 to 4 digits typed toward sign-on. -/
  code : List Byte
  mode : DispMode
  modePending : Option ModeCode
  bell : Bool
  image : Vector Row 24
  dirty : Vector Bool 24
  flight : Option Flight
  codeOut : Option CodeOut
  cursorPending : Bool
  /-- Where the screen cursor stands: row and column (R65, R75, R91). -/
  cursorAt : Nat × Nat
  fifo : List Byte
  discardNext : Bool
  /-- The blank timer: stopped, or running with the blank time it started with, in minutes (R81). -/
  blankTimer : Option Nat
  alert : Option Alert
  /-- The blink phase: true for ON (R84). -/
  blinkOn : Bool
  /-- The blink timer: stopped, or running with the length it was started with, in tenths of a second (R84). -/
  blinkTimer : Option Nat
  message : Option (List Byte)
  view : Option View
  edit : Option Edit
deriving DecidableEq, Repr

/-! ## Wire intake (chapter 6) -/

/-- An intake's state (R110). -/
inductive IntakeState where
  | seek
  | heading
  | body
  | skip
  | noisy
deriving DecidableEq, Repr

/-- The pending separator (R115). -/
inductive Sep where
  | none
  | space
  | oneLineEnd
  | twoLineEnds
deriving DecidableEq, Repr

/-- The item in progress: its story's key, its service letter and its item number (R110). -/
structure Item where
  key : Key
  service : Byte
  number : Nat
deriving DecidableEq, Repr

/-- A break or an idle the multiplexer has handed to the intake and the intake has yet to act on (R54, R111). -/
inductive Handed where
  | brk
  | idle
deriving DecidableEq, Repr

/-- A wire intake (R110). -/
structure Intake where
  state : IntakeState
  heading : List Byte
  item : Option Item
  sep : Sep
  errorRun : Nat
  skipped : Nat
  /-- The heading has just ended at a CR: a GOOD LF that comes next is discarded (R112). -/
  afterCr : Bool
  handed : List Handed
deriving DecidableEq, Repr

/-- The role of a line with the state of the role's owner on that line (R45, R63, R110). -/
inductive Owner where
  | idle
  | terminal (session : Session)
  | wire (intake : Intake)
  | setter
deriving DecidableEq, Repr

/-- A line position's record (R44) and its two wire settings (R109). -/
structure LineRec where
  owner : Owner
  settings : Settings
  rx : Rx
  /-- The receive pin at the last sample an event told of: true is marking (R51). -/
  marking : Bool
  slot : Option RxChar
  holding : Option Byte
  shift : Option TxFrame
  test : List Byte
  /-- The idle timer: true while it runs (R53). -/
  idleTimer : Bool
  parityErrors : Nat
  framingErrors : Nat
  overruns : Nat
  breaks : Nat
  accept : AcceptSet
  /-- The wire idle time, 1 to 30 s (R109). -/
  idleTime : Nat
deriving DecidableEq, Repr

/-- The settings all sessions share: blank time in minutes, blink lengths in tenths of a second, banner (R63). -/
structure TermSettings where
  blankTime : Nat
  blinkOn : Nat
  blinkOff : Nat
  banner : List Byte
deriving DecidableEq, Repr

/-! ## Formats, width tables and the fit unit (chapters 7 and 8) -/

/-- A format record (R122). -/
structure Format where
  name : List Byte
  measure : Nat
  font : Nat
  size : Nat
  leading : Nat
  mode : Mode
  minSpace : Nat
  optSpace : Nat
  maxSpace : Nat
  letterspace : Nat
  indent : Nat
  extraLead : Nat
deriving DecidableEq, Repr

/-- The 16 width tables, each with its 128 entries for codes 0x20 to 0x9F (R126). -/
abbrev WidthTables := Vector (Vector Nat 128) 16

/-- The totals of R148. -/
structure Totals where
  depth : Nat
  lines : Nat
  loose : Nat
  overlong : Nat
  missing : Nat
deriving DecidableEq, Repr

/-- The font, size, leading and mode in force (R134). -/
structure Context where
  font : Nat
  size : Nat
  lead : Nat
  mode : Mode
deriving DecidableEq, Repr

/-- What a placed element is: a character or added hyphen by its emitted code, a fixed space or HARD, or a word gap. -/
inductive ElemKind where
  | glyph (code : Byte)
  | fixed
  | gap
deriving DecidableEq, Repr

/-- A placed element with its escapement, the context it was measured in, and whether its glyph is missing (R146). -/
structure Elem where
  kind : ElemKind
  width : Nat
  ctx : Context
  missing : Bool
deriving DecidableEq, Repr

/-- A line in progress: the mode and the indent it started with, and the elements placed on it so far (R136, R137, R149). -/
structure OpenLine where
  mode : Mode
  indent : Nat
  elems : List Elem
deriving DecidableEq, Repr

/-- A line fitter's place in its walk of one story: the count of text cells behind it, the line in progress, whether the
next line begins a paragraph, whether the next line is the story's first, and the totals so far (R136, R148, R149). No line
is in progress between two events, since each line is completed within one (log 42). -/
structure Fitter where
  place : Nat
  line : Option OpenLine
  paraStart : Bool
  first : Bool
  totals : Totals
deriving DecidableEq, Repr

/-- What the fit unit holds for the entry being fitted: its flags, the fitter's copies and the fitter (R149, R130). -/
structure FitRun where
  spoiled : Bool
  outdated : Bool
  again : Bool
  formatNo : FormatNo
  format : Format
  widths : WidthTables
  fitter : Fitter
deriving DecidableEq, Repr

/-- A fit queue entry: the story's key, and the fit while the entry is active (R149). -/
structure FitEntry where
  key : Key
  active : Option FitRun
deriving DecidableEq, Repr

/-! ## Setting channels (chapter 9) -/

/-- One story's placement in a job (R158). -/
structure Segment where
  key : Key
  measure : Nat
  depth : Nat
  column : Nat
  top : Nat
deriving DecidableEq, Repr

/-- A job on a set queue (R158). -/
structure Job where
  number : Nat
  /-- PAGE, as against STORY. -/
  page : Bool
  rush : Bool
  queuer : Mover
  /-- The after-basket of a story job. -/
  after : Option BasketNo
  segments : List Segment
  /-- RUNNING, as against WAITING. The segment and line being sent are in the channel's Run. -/
  running : Bool
deriving DecidableEq, Repr

/-- A setter code (R165, R194). -/
inductive Code where
  | jobStart (job : Nat)
  | segmentStart (column top : Nat)
  | lineStart (leading left : Nat)
  | font (f : Nat)
  | size (s : Nat)
  | char (code : Byte) (escapement : Nat)
  | space (escapement : Nat)
  | lineEnd (right : Int)
  | jobEnd (job : Nat)
  | cancel
deriving DecidableEq, Repr

/-- The counts SET_DONE reports over emitted lines (R174). -/
structure LineCounts where
  loose : Nat
  overlong : Nat
  missing : Nat
deriving DecidableEq, Repr

/-- A staged line: its segment, its code list and its counts (R166). -/
structure Staged where
  segment : Nat
  codes : List Code
  counts : LineCounts
deriving DecidableEq, Repr

/-- What a channel keeps for one segment of the running job (R168, R174). -/
structure SegRun where
  /-- Depth of the lines that fit, in half-points (R168). -/
  emittedDepth : Nat
  oversetLines : Nat
  oversetDepth : Nat
  /-- Lines whose LINE END was sent. -/
  sent : Nat
  /-- The counts over the lines sent. -/
  sentCounts : LineCounts
  /-- The story's totals of R148, overset lines included. -/
  totals : Totals
deriving DecidableEq, Repr

/-- Where the sending of a job stands (R166, R167). -/
inductive Phase where
  /-- A code's bytes are being placed; `rest` are those not yet placed. -/
  | placing (code : Code) (rest : List Byte)
  /-- A code has left and its dwell counts, in ticks. -/
  | dwell (code : Code) (ticks : Nat)
  /-- The next code is due: it waits for staging, or for the end of a pause. -/
  | due
deriving DecidableEq, Repr

/-- The seven setter parameters of a channel (R162). -/
structure SetterParams where
  k : Nat
  dc : Nat
  ds : Nat
  df : Nat
  dz : Nat
  dl : Nat
  stall : Nat
deriving DecidableEq, Repr

/-- What a channel holds for its running job: the copies taken at its start (R131, R164), the fitter, and the sending. -/
structure Run where
  formats : List Format
  widths : WidthTables
  params : SetterParams
  segs : List SegRun
  /-- The segment the fitter works in. -/
  fitSeg : Nat
  fitter : Fitter
  /-- The font and size last put into the segment's code sequence (R165). -/
  lastFont : Nat
  lastSize : Nat
  /-- Progress: the segment being sent; equal to the number of segments once JOB END is next (R158). -/
  seg : Option Nat
  /-- Progress: the count of lines of the segment begun so far (R158). -/
  line : Nat
  /-- The codes of the line or segment opening still to be sent. -/
  codes : List Code
  /-- The counts of the line being sent. -/
  counts : LineCounts
  phase : Phase
deriving DecidableEq, Repr

inductive ChanState where
  | offline
  | idle
  | running
  | paused
deriving DecidableEq, Repr

inductive OfflineReason where
  | noLine
  | notReady
  | fault
  | stalled
  | lineReset
deriving DecidableEq, Repr

/-- A setting channel (R162) and its job counter (R158). -/
structure Channel where
  state : ChanState
  reason : Option OfflineReason
  /-- The setter flow: true for READY. -/
  flow : Bool
  lastStatus : Option Byte
  queue : List Job
  cancelPending : Bool
  staged : Option Staged
  /-- The stall timer: stopped, or running with the limit it was started with, in seconds. -/
  stallTimer : Option Nat
  params : SetterParams
  counter : Nat
  run : Option Run
deriving DecidableEq, Repr

/-! ## Host channel and image loader (chapters 10 and 12) -/

/-- A complete inbound frame (R177). -/
structure Frame where
  kind : Byte
  tag : Byte
  body : List Byte
deriving DecidableEq, Repr

/-- An inbound buffer (R178). A FILLING buffer holds the bytes after the lead byte; a HELD one its frame and its place in
the order of completion. -/
inductive Buf where
  | free
  | filling (bytes : List Byte)
  | held (frame : Frame) (completed : Nat)
deriving DecidableEq, Repr

/-- The outcome of an image check (R196). -/
inductive ImageResult where
  | valid
  | signature
  | range
  | sum
deriving DecidableEq, Repr

/-- The work of an order that spans EEPROM transfers (R179, R199, R200, R201). -/
inductive Work where
  | restart (reload : Bool)
  | imageRead (first count : Nat)
  | imageWrite (first : Nat) (words : List Word)
deriving DecidableEq, Repr

/-- The order being acted on: its frame, whose buffer stays HELD, and its work. -/
structure Active where
  frame : Frame
  work : Work
deriving DecidableEq, Repr

/-- Why an item ended (R118). -/
inductive EndCause where
  | endByte
  | idle
  | newStart
  | size
  | space
  | noise
  | brk
  | lineReset
deriving DecidableEq, Repr

/-- How a job ended (R173, R174). -/
inductive JobEnd where
  | done
  | cancelled
  | setterStalled
  | setterFault
  | lineReset
deriving DecidableEq, Repr

/-- Why a TERMINAL_SIGN notice was queued (R66, R68, R69, R70). -/
inductive SignCause where
  | code
  | order
  | key
  | lineReset
deriving DecidableEq, Repr

/-- A notice with its contents (R191). -/
inductive Notice where
  | storyArrived (key : Key) (basket : BasketNo) (prio : Prio)
  | storyKilled (key : Key)
  | storyPurged (key : Key)
  | wireItem (key : Key) (line : LineNo) (service : Byte) (item : Nat) (prio : Prio) (count : Nat)
      (cause : EndCause) (truncated : Bool) (superseded : Nat)
  | wireSuperseded (old new : Key) (service : Byte) (item : Nat)
  | wireSkipped (line : LineNo) (service : Byte) (item : Nat) (slug : List Byte) (skipped : Nat)
  | fitDone (key : Key) (format : FormatNo) (totals : Totals)
  | setDone (ch : Chan) (job : Job) (outcome : JobEnd) (segs : List SegRun)
  | setterState (ch : Chan) (state : ChanState) (reason : Option OfflineReason) (job : Option Nat)
  | storeLow (free : Nat)
  | lineFault (line : LineNo) (noise : Bool)
  | terminalSign (line : LineNo) (on : Option ProfileNo) (cause : SignCause)
  | badFrame (gap : Bool) (tag : Option Byte) (count : Nat)
  | imageState (result : ImageResult)
  | restarted (reload : Bool) (result : Option ImageResult)
deriving DecidableEq, Repr

/-- The outbound frame in progress: its bytes still to leave, the first of them on the pins, and whether it is the reply
(R180). -/
structure OutFrame where
  rest : List Byte
  reply : Bool
deriving DecidableEq, Repr

/-- The host channel (R176 to R180, R186). -/
structure HostChan where
  bufA : Buf
  bufB : Buf
  /-- The model's own: the buffer that last began to fill was B (log 11). -/
  lastB : Bool
  /-- The model's own: frames completed so far, which gives each HELD buffer its place in the order (R178). -/
  completed : Nat
  /-- The gap timer: true while it runs (R177). -/
  gapTimer : Bool
  badFrames : Nat
  /-- The direction pin: true for controller-to-host (R176). -/
  toHost : Bool
  /-- A byte the host has placed and strobed whose acknowledge is withheld (R176, R178). -/
  waiting : Option Byte
  /-- The reply slot: the reply's frame (R179). -/
  reply : Option (List Byte)
  out : Option OutFrame
  notices : List Notice
  /-- The notice-overflow flag (R186). -/
  overflow : Bool
  active : Option Active
deriving DecidableEq, Repr

/-- The image loader: the image state, which the last load set, and whether the power-start read is in progress (R196,
R198). Before the first load it is INVALID with SIGNATURE: DESIGN CHOICE (log 49). -/
structure Loader where
  result : ImageResult
  loading : Bool
deriving DecidableEq, Repr

/-- The whole machine. -/
structure State where
  /-- The chained blocks in rising block number; every other block is in the free set (R3). -/
  store : List Block
  dir : Vector Rec 512
  baskets : Vector Basket 24
  profiles : Vector Profile 16
  lines : Vector LineRec 40
  term : TermSettings
  formats : Vector Format 32
  widths : WidthTables
  /-- The fit queue, oldest first (R149). -/
  fitQueue : List FitEntry
  chanA : Channel
  chanB : Channel
  host : HostChan
  loader : Loader
  /-- The EEPROM's words that do not read 0xFFFF, in rising word number (R195; log 6). -/
  eeprom : List (Nat × Word)
  /-- The commands waiting, first in, first out. -/
  pending : List Instr
  /-- The model's own: how many free values have been drawn (log 10). -/
  freeCount : Nat
deriving DecidableEq, Repr

/-- Why the machine stops with a fault. Every command of the table has an effect the manual gives, and a command whose
event cannot happen in a state leaves the state as it is (log 1), so no meaning raises a fault. The one constructor keeps
the type inhabited; nothing raises it, which is safe. -/
inductive Fault where
  | neverRaised
deriving DecidableEq, Repr

/-- Why a command has no meaning. `notModelled` would be raised by an arm of exec whose row has no meaning yet; every row
has one, so nothing raises it. Raising it is safe: the run stops. -/
inductive Refusal where
  | notModelled (mnemonic : String)
deriving DecidableEq, Repr

/-! ## Power start values -/

/-- The codes of a text. -/
def ascii (t : String) : List Byte := t.toList.map fun c => BitVec.ofNat 8 c.toNat

/-- A number below 100 as two decimal digits. -/
def twoDigits (n : Nat) : List Byte := [BitVec.ofNat 8 (0x30 + n / 10 % 10), BitVec.ofNat 8 (0x30 + n % 10)]

/-- The settings of R44: 9600 bit/s, 8 data bits, no parity, 1 stop bit. -/
def Settings.default : Settings := { p := 1, d := 63, dataBits := 8, parity := .none, stopBits := 1 }

/-- A line record at power start (R44, R109). -/
def LineRec.powerStart : LineRec :=
  { owner := .idle, settings := .default, rx := .waitMark, marking := true, slot := none, holding := none, shift := none,
    test := [], idleTimer := false, parityErrors := 0, framingErrors := 0, overruns := 0, breaks := 0, accept := 0#26,
    idleTime := 8 }

/-- A basket's power start name: WIRE, SPIKE, or "B01" to "B22" (R25). -/
def defaultBasketName (b : BasketNo) : List Byte :=
  if b.val = 0 then ascii "WIRE" else if b.val = 23 then ascii "SPIKE" else ascii "B" ++ twoDigits b.val

/-- A profile at power start (R37). -/
def Profile.default (n : ProfileNo) : Profile :=
  { code := 0, name := ascii "P" ++ twoDigits n.val, take := 0#23, send := 0#23, watch := 0#23, mayKill := false,
    maySet := false, mayReviewAny := false, defaultBasket := 1, defaultChannel := .a }

/-- The default format record (R123). -/
def Format.default (n : FormatNo) : Format :=
  { name := ascii "F" ++ twoDigits n.val, measure := 144, font := 0, size := 18, leading := 20, mode := .justify,
    minSpace := 8, optSpace := 11, maxSpace := 24, letterspace := 1, indent := 1, extraLead := 0 }

/-- The width tables at power start: zero in every entry (R123). -/
def zeroWidths : WidthTables := Vector.replicate 16 (Vector.replicate 128 0)

/-- The default terminal settings (R63). -/
def TermSettings.default : TermSettings :=
  { blankTime := 15, blinkOn := 6, blinkOff := 4, banner := ascii "VESJAN 612" }

/-- The default setter parameters (R162). -/
def SetterParams.default : SetterParams :=
  { k := 0, dc := 20, ds := 10, df := 1000, dz := 200, dl := 10, stall := 120 }

/-- A channel at power start, before any line is bound (R162, R158). -/
def Channel.powerStart : Channel :=
  { state := .offline, reason := some .noLine, flow := false, lastStatus := none, queue := [], cancelPending := false,
    staged := none, stallTimer := none, params := .default, counter := 1, run := none }

/-- The host channel at power start (R178, R186, R187). The direction pin is the host's: log 13. -/
def HostChan.powerStart : HostChan :=
  { bufA := .free, bufB := .free, lastB := true, completed := 0, gapTimer := false, badFrames := 0, toHost := false,
    waiting := none, reply := none, out := none, notices := [], overflow := false, active := none }

/-- Every block at its power start values, with the image read begun (R23, R44, R198): the state a power-on reset leaves,
given what it does not touch (the EEPROM, the queue of commands and the count of free values). -/
def State.atPowerStart (eeprom : List (Nat × Word)) (pending : List Instr) (freeCount : Nat) : State :=
  { store := []
    dir := Vector.replicate 512 { gen := 0, story := none }
    baskets := Vector.ofFn fun b => { name := defaultBasketName b, stories := [] }
    profiles := Vector.ofFn Profile.default
    lines := Vector.replicate 40 LineRec.powerStart
    term := .default
    formats := Vector.ofFn Format.default
    widths := zeroWidths
    fitQueue := []
    chanA := .powerStart
    chanB := .powerStart
    host := .powerStart
    loader := { result := .signature, loading := true }
    eeprom := eeprom
    pending := pending
    freeCount := freeCount }

/-- The machine right after the power-on reset: power start values, the image read in progress, an erased EEPROM
(log 6) and no command waiting. -/
def State.reset : State := State.atPowerStart [] [] 0

end Sys2Proof.Machine
end

