-- ==== Sys2Proof/Machine/Bits.lean ====
section
/-! DEFINITION. Numbers, names and bytes: the encodings of R189 that other files share, and the texts of the screen. -/

namespace Sys2Proof.Machine

/-- A number as one byte of a frame; above 255 the byte is open (log 20). -/
def byte8 (n : Nat) : Byte := if n < 256 then BitVec.ofNat 8 n else Config.wideNumber8 n

/-- A 16-bit word as its two bytes, high byte first (R189). -/
def wordBytes (w : Word) : List Byte := [BitVec.ofNat 8 (w.toNat / 256), BitVec.ofNat 8 w.toNat]

/-- A number as two bytes, high byte first (R189); above 65,535 the bytes are open (log 20). -/
def be16 (n : Nat) : List Byte := wordBytes (if n < 65536 then BitVec.ofNat 16 n else Config.wideNumber16 n)

/-- Two bytes, high byte first, as a number (R189). -/
def ofBE16 (hi lo : Byte) : Nat := hi.toNat * 256 + lo.toNat

/-- A yes/no flag as a byte (R189). -/
def flagByte (b : Bool) : Byte := if b then 1 else 0

/-- A byte as a yes/no flag; any other byte is refused by the rule that owns the field (R189). -/
def parseFlag (b : Byte) : Option Bool := if b = 0 then some false else if b = 1 then some true else none

/-- A text as its count and its characters (R189). -/
def textBytes (t : List Byte) : List Byte := byte8 t.length :: t

/-- The decimal digits of a number, with fuel for its length. -/
def decimalFrom : Nat → Nat → List Byte → List Byte
  | 0, _, acc => acc
  | fuel + 1, n, acc =>
    let acc := BitVec.ofNat 8 (0x30 + n % 10) :: acc
    if n / 10 = 0 then acc else decimalFrom fuel (n / 10) acc

/-- A number in decimal, as the screen shows it. -/
def decimal (n : Nat) : List Byte := decimalFrom 12 n []

/-- A number as four decimal digits (R113). -/
def fourDigits (n : Nat) : List Byte := twoDigits (n / 100) ++ twoDigits n

/-- One hexadecimal digit (R90). DESIGN CHOICE (log 52): A to F in upper case. -/
def hexDigit (n : Nat) : Byte := BitVec.ofNat 8 (if n % 16 < 10 then 0x30 + n % 16 else 0x37 + n % 16)

def isDigit (b : Byte) : Bool := 0x30 ≤ b.toNat && b.toNat ≤ 0x39
def isUpper (b : Byte) : Bool := 0x41 ≤ b.toNat && b.toNat ≤ 0x5A
def isLower (b : Byte) : Bool := 0x61 ≤ b.toNat && b.toNat ≤ 0x7A

/-- A letter in upper case; other codes unchanged. -/
def toUpper (b : Byte) : Byte := if isLower b then b - 0x20 else b

/-- The characters of slugs and names: A–Z, 0–9 and hyphen (R14, R25). -/
def isNameChar (b : Byte) : Bool := isUpper b || isDigit b || b == 0x2D

/-- A name of 1 to `max` characters from the name set (R25, R37, R122; a slug has `max` 16, R14). -/
def validName (max : Nat) (t : List Byte) : Bool := !t.isEmpty && t.length ≤ max && t.all isNameChar

/-- The value of a list of decimal digits. -/
def digitsValue (t : List Byte) : Nat := t.foldl (fun n b => n * 10 + (b.toNat - 0x30)) 0

/-- The basket mask of a 24-bit (or longer) number: bit 23, SPIKE, and any bit above it are left out (R37, R189). -/
def maskOf (n : Nat) : Mask := BitVec.ofNat 23 n

/-- A basket is in a mask. SPIKE (23) is in none (R37). -/
def inMask (m : Mask) (b : BasketNo) : Bool := m.getLsbD b.val

/-- The line's name on the screen: "L07" (scope, section 4.1). -/
def lineName (l : LineNo) : List Byte := ascii "L" ++ twoDigits l.val

def chanName : Chan → List Byte
  | .a => ascii "A"
  | .b => ascii "B"

/-- The story number of a record (R14). -/
def storyNumber (sid : Sid) : Nat := sid.val + 1

/-- The record of a story number, when the number is 1 to 512 (R18). -/
def sidOf (number : Nat) : Option Sid := if h : 1 ≤ number ∧ number ≤ 512 then some ⟨number - 1, by omega⟩ else none

/-- Priorities in order: FLASH 3, URGENT 2, ROUTINE 1 (scope, section 4.1; R189). -/
def Prio.rank : Prio → Nat
  | .routine => 1
  | .urgent => 2
  | .flash => 3

/-- WIRE, basket 0 (R25). -/
def wireBasket : BasketNo := 0
/-- SPIKE, basket 23 (R25). -/
def spikeBasket : BasketNo := 23

/-- The number of a line, basket and so on, read from a byte, when it is in range. -/
def lineOf (b : Byte) : Option LineNo := if h : b.toNat < 40 then some ⟨b.toNat, h⟩ else none
def basketOf (b : Byte) : Option BasketNo := if h : b.toNat < 24 then some ⟨b.toNat, h⟩ else none
def profileOf (b : Byte) : Option ProfileNo := if h : b.toNat < 16 then some ⟨b.toNat, h⟩ else none
def formatOf (b : Byte) : Option FormatNo := if h : b.toNat < 32 then some ⟨b.toNat, h⟩ else none
def chanOf (b : Byte) : Option Chan := if b = 0 then some .a else if b = 1 then some .b else none
def prioOf (b : Byte) : Option Prio :=
  if b = 1 then some .routine else if b = 2 then some .urgent else if b = 3 then some .flash else none
def modeOf (n : Nat) : Option Mode :=
  if n = 1 then some .justify else if n = 2 then some .left else if n = 3 then some .right
  else if n = 4 then some .center else none

/-- A basket that is not SPIKE (R14, R31, R182). -/
def deskOf (b : Byte) : Option BasketNo := if b.toNat < 23 then basketOf b else none

end Sys2Proof.Machine
end

