-- ==== Sys2Proof/Machine/Ops.lean ====
section
/-! DEFINITION. Named reads and writes of the state that every other file shares: line records, sessions, story records,
channels, the notice queue (R186), and what marks a session's rows and pends its codes (R76, R77). -/

namespace Sys2Proof.Machine

/-! ## Lines and sessions -/

def State.setLine (l : LineNo) (r : LineRec) (s : State) : State := { s with lines := s.lines.set l r }

def State.modLine (l : LineNo) (f : LineRec → LineRec) (s : State) : State := s.setLine l (f s.lines[l])

/-- The role an owner stands for (R45). -/
def Owner.role : Owner → Role
  | .idle => .idle
  | .terminal _ => .terminal
  | .wire _ => .wire
  | .setter => .setter

/-- The session on a line of role TERMINAL (R63). -/
def Owner.session? : Owner → Option Session
  | .terminal ss => some ss
  | _ => none

/-- The intake on a line of role WIRE (R110). -/
def Owner.intake? : Owner → Option Intake
  | .wire ik => some ik
  | _ => none

def Owner.mapSession (f : Session → Session) : Owner → Owner
  | .terminal ss => .terminal (f ss)
  | o => o

def State.session? (s : State) (l : LineNo) : Option Session := s.lines[l].owner.session?

def State.intake? (s : State) (l : LineNo) : Option Intake := s.lines[l].owner.intake?

def State.setSession (l : LineNo) (ss : Session) (s : State) : State :=
  s.modLine l fun r => { r with owner := .terminal ss }

def State.setIntake (l : LineNo) (ik : Intake) (s : State) : State := s.modLine l fun r => { r with owner := .wire ik }

/-- Changes the session on a line, if the line has one. -/
def State.modSession (l : LineNo) (f : Session → Session) (s : State) : State :=
  s.modLine l fun r => { r with owner := r.owner.mapSession f }

/-- Changes every session, each by its line. -/
def State.modSessions (f : LineNo → Session → Session) (s : State) : State :=
  { s with lines := Vector.ofFn fun l => { s.lines[l] with owner := s.lines[l].owner.mapSession (f l) } }

/-! ## Story records -/

def State.story? (s : State) (sid : Sid) : Option Story := s.dir[sid].story

/-- The story's key as the record stands (R18). -/
def State.keyOf (s : State) (sid : Sid) : Key := { sid := sid, gen := s.dir[sid].gen }

def State.setRec (sid : Sid) (r : Rec) (s : State) : State := { s with dir := s.dir.set sid r }

/-- Changes the story of a record, if the record is not FREE. -/
def State.modStory (sid : Sid) (f : Story → Story) (s : State) : State :=
  s.setRec sid { s.dir[sid] with story := s.dir[sid].story.map f }

def Place.isHeldBy (l : LineNo) : Place → Bool
  | .held m => l == m
  | _ => false

def Rec.isHeldBy (l : LineNo) (r : Rec) : Bool := r.story.any fun st => st.place.isHeldBy l

/-- The story a line holds, if it holds one (R16). -/
def State.heldBy (s : State) (l : LineNo) : Option Sid := (List.finRange 512).find? fun sid => s.dir[sid].isHeldBy l

/-- The key names the story: its record is not FREE and has the key's generation. -/
def State.live? (s : State) (k : Key) : Option Story := if s.dir[k.sid].gen = k.gen then s.story? k.sid else none

/-! ## Baskets and channels -/

def State.setBasket (b : BasketNo) (x : Basket) (s : State) : State := { s with baskets := s.baskets.set b x }

/-- The stories of a basket, head first (R26). -/
def State.stories (s : State) (b : BasketNo) : List Sid := s.baskets[b].stories

def State.setStories (b : BasketNo) (l : List Sid) (s : State) : State :=
  s.setBasket b { s.baskets[b] with stories := l }

def State.chan (s : State) : Chan → Channel
  | .a => s.chanA
  | .b => s.chanB

def State.setChan (ch : Chan) (c : Channel) (s : State) : State :=
  match ch with
  | .a => { s with chanA := c }
  | .b => { s with chanB := c }

def State.modChan (ch : Chan) (f : Channel → Channel) (s : State) : State := s.setChan ch (f (s.chan ch))

/-- The lines with role SETTER, in line order. -/
def State.setterLines (s : State) : List LineNo := (List.finRange 40).filter fun l => s.lines[l].owner.role = .setter

/-- The line a channel is bound to: A has the lower-numbered SETTER line, B the higher (R48). -/
def State.boundLine (s : State) : Chan → Option LineNo
  | .a => s.setterLines[0]?
  | .b => s.setterLines[1]?

/-- The channel bound to a line (R48). -/
def State.boundChan (s : State) (l : LineNo) : Option Chan :=
  if s.boundLine .a = some l then some .a else if s.boundLine .b = some l then some .b else none

/-! ## The notice queue (R186) -/

/-- A notice's kind code (R191). -/
def Notice.kind : Notice → Byte
  | .storyArrived .. => 0x80
  | .storyKilled .. => 0x81
  | .storyPurged .. => 0x82
  | .wireItem .. => 0x83
  | .wireSuperseded .. => 0x84
  | .wireSkipped .. => 0x85
  | .fitDone .. => 0x86
  | .setDone .. => 0x87
  | .setterState .. => 0x88
  | .storeLow .. => 0x89
  | .lineFault .. => 0x8A
  | .terminalSign .. => 0x8B
  | .badFrame .. => 0x8C
  | .imageState .. => 0x8D
  | .restarted .. => 0x8E

/-- The story number of a job's first story, the subject of its SET_DONE (R174). -/
def Job.subject (j : Job) : Nat :=
  match j.segments with
  | [] => 0
  | g :: _ => storyNumber g.key.sid

def chanIndex : Chan → Nat
  | .a => 0
  | .b => 1

/-- A notice's subject class (0 none, 1 story, 2 line, 3 channel) and subject (R188, and the table of 10.4). -/
def Notice.subject : Notice → Nat × Nat
  | .storyArrived k _ _ | .storyKilled k | .storyPurged k | .wireItem k .. | .wireSuperseded k .. | .fitDone k .. =>
    (1, storyNumber k.sid)
  | .setDone _ j _ _ => (1, j.subject)
  | .wireSkipped l .. | .lineFault l _ | .terminalSign l .. => (2, l.val)
  | .setterState c .. => (3, chanIndex c)
  | .storeLow _ | .badFrame .. | .imageState _ | .restarted .. => (0, 0)

/-- Two notices merge: the same kind and subject (R186). -/
def Notice.merges (a b : Notice) : Bool := a.kind == b.kind && a.subject == b.subject

/-- Offering a notice: it merges with a queued one in that one's place, joins the tail, or is dropped with the overflow
flag set (R186). -/
def HostChan.offer (n : Notice) (h : HostChan) : HostChan :=
  if h.notices.any n.merges then { h with notices := h.notices.map fun m => if n.merges m then n else m }
  else if h.notices.length < 96 then { h with notices := h.notices ++ [n] }
  else { h with overflow := true }

def State.offer (n : Notice) (s : State) : State := { s with host := s.host.offer n }

/-! ## Rows, codes, message and timers of a session -/

/-- Marks rows dirty; if the row in flight is one of them its changed flag is set (R76). -/
def Session.mark (p : Fin 24 → Bool) (ss : Session) : Session :=
  { ss with
    dirty := Vector.ofFn fun r => ss.dirty[r] || p r
    flight := ss.flight.map fun f => if p f.row then { f with changed := true } else f }

/-- Marks all 24 rows dirty. -/
def Session.markAll (ss : Session) : Session := ss.mark fun _ => true

def Session.markRow (r : Fin 24) (ss : Session) : Session := ss.mark fun x => x == r

/-- Marks the rows from `first` to `last` dirty. -/
def Session.markRows (first last : Nat) (ss : Session) : Session :=
  ss.mark fun x => decide (first ≤ x.val) && decide (x.val ≤ last)

/-- Makes a mode code pending, in place of any still pending; a mode code being sent does not clear it (R77, R80). -/
def Session.pendMode (m : ModeCode) (ss : Session) : Session :=
  { ss with
    modePending := some m
    codeOut := ss.codeOut.map fun c => if c.kind = .mode then { c with again := true } else c }

/-- Sets cursor pending; a cursor-address code being sent does not clear it (R77). -/
def Session.pendCursor (ss : Session) : Session :=
  { ss with
    cursorPending := true
    codeOut := ss.codeOut.map fun c => if c.kind = .cursor then { c with again := true } else c }

def Session.ring (ss : Session) : Session := { ss with bell := true }

/-- Places a message in the message area, in place of the one before (R73). -/
def Session.say (t : List Byte) (ss : Session) : Session := { ss with message := some t }.markRow 0

/-- A refusal at a terminal: its message, and bell pending (R89). -/
def Session.refuse (t : List Byte) (ss : Session) : Session := (ss.say t).ring

/-- Starts the blank timer from zero; with a blank time of 0 it does not run (R81). -/
def Session.startBlank (blankTime : Nat) (ss : Session) : Session :=
  { ss with blankTimer := if blankTime = 0 then none else some blankTime }

/-- The mode code that stands for a display mode (R80). -/
def DispMode.code : DispMode → ModeCode
  | .normal => .normal
  | .inverse => .inverse
  | .blank => .blank
  | .test => .normal

/-- Waking a blanked session by a key or a FLASH alert (R82). -/
def Session.wake (blankTime : Nat) (ss : Session) : Session :=
  (({ ss with mode := .normal }.pendMode .normal).markAll.pendCursor).startBlank blankTime

/-- The session is signed on (R40). -/
def Session.signedOn (ss : Session) : Bool := ss.state != .dark

/-- A session takes an alert (R84). -/
def Session.takeAlert (t : TermSettings) (a : Alert) (ss : Session) : Session :=
  let ss := { ss with alert := some a, message := none, blinkOn := true }.markRow 0
  if a.prio = .flash then
    let ss := { ss with blinkTimer := some t.blinkOn }
    if ss.mode = .blank then ss.wake t.blankTime else ss
  else { ss with blinkTimer := none }

/-- A session is offered an alert: it takes it unless its own has a higher priority (R40). -/
def Session.offerAlert (t : TermSettings) (a : Alert) (ss : Session) : Session :=
  match ss.alert with
  | none => ss.takeAlert t a
  | some own => if own.prio.rank ≤ a.prio.rank then ss.takeAlert t a else ss

/-- The alert clears, and row 0 returns to its normal content (R41, R84). With no alert nothing changes. -/
def Session.clearAlert (ss : Session) : Session :=
  match ss.alert with
  | none => ss
  | some _ => { ss with alert := none, blinkOn := true, blinkTimer := none }.markRow 0

/-- The session goes to DIRECTORY with its view as it was kept; its edit state is discarded (R88). -/
def Session.toDirectory (ss : Session) : Session := { ss with state := .directory, edit := none }.markAll

/-- The edit state on entering EDIT or REVIEW, at offset 0 (R88). -/
def Edit.enter (k : Key) : Edit := { key := k, cursor := 0, top := 0, overstrike := false, entry := none }

def Session.toEdit (e : Edit) (ss : Session) : Session := { ss with state := .edit, edit := some e }.markAll

def Session.toReview (e : Edit) (ss : Session) : Session := { ss with state := .review, edit := some e }.markAll

/-- The session shows this story in EDIT or REVIEW. -/
def Session.shows (sid : Sid) (ss : Session) : Bool := ss.edit.any fun e => e.key.sid == sid

/-- The profile a session is signed on under, as it now stands (R37). -/
def State.profileOf (s : State) (ss : Session) : Option Profile := ss.profile.map fun n => s.profiles[n]

/-- The view set of a profile (R39). -/
def Profile.inView (p : Profile) (b : BasketNo) : Bool :=
  p.mayReviewAny || inMask p.take b || inMask p.watch b || (p.mayKill && b == spikeBasket)

/-! ## Free values and outcomes -/

/-- Whether a line's receive pin is marking now (R53, R57, R59). In HUNT after a marking sample, the one behind a frame that is
all spacing and no break among them, and in BREAK the last sample stands; otherwise no event has told the level and it is a
free value (log 8). -/
def State.markingNow (s : State) (l : LineNo) : Bool :=
  match s.lines[l].rx with
  | .hunt => if s.lines[l].marking then true else Config.freeMarking s.freeCount l.val
  | .brk => false
  | .waitMark | .assemble => Config.freeMarking s.freeCount l.val

/-- A command's operand as a line position; a command that names no line of the 612 leaves the state as it is (log 1). -/
def onLine (line : Nat) (s : State) (f : LineNo → Host.Outcome State Fault Refusal) : Host.Outcome State Fault Refusal :=
  if h : line < 40 then f ⟨line, h⟩ else .next s

end Sys2Proof.Machine
end

