-- ==== Sys2Proof/Machine/Notices.lean ====
section
/-! DEFINITION. The bytes of the outbound frames: results, replies and notices (R179, R188 to R191). -/

namespace Sys2Proof.Machine

/-! ## Encodings shared by replies and notices (R189, R190) -/

def keyBytes (k : Key) : List Byte := be16 (storyNumber k.sid) ++ [byte8 k.gen]

def Prio.byte (p : Prio) : Byte := byte8 p.rank

def chanByte (ch : Chan) : Byte := byte8 (chanIndex ch)

def lineByte (l : LineNo) : Byte := byte8 l.val

/-- A job reference (R189). -/
def jobBytes (ch : Chan) (job : Nat) : List Byte := chanByte ch :: be16 job

def ChanState.byte : ChanState → Byte
  | .offline => 0
  | .idle => 1
  | .running => 2
  | .paused => 3

/-- An offline reason; 0 for none (R190). -/
def reasonByte : Option OfflineReason → Byte
  | none => 0
  | some .noLine => 1
  | some .notReady => 2
  | some .fault => 3
  | some .stalled => 4
  | some .lineReset => 5

/-- The image state, 0 VALID or 1 INVALID, and its failure reason (R191, R196). -/
def ImageResult.bytes : ImageResult → List Byte
  | .valid => [0, 0]
  | .signature => [1, 1]
  | .range => [1, 2]
  | .sum => [1, 3]

/-- An optional field behind its presence byte, or the bytes that stand for it when it is absent (R189 to R191). DEDUCED (log
57): R189 lists no code for a presence byte; it is read as a yes/no flag, 1 for a field that is present and 0 for one that is
absent. -/
def withPresence (absent : List Byte) : Option (List Byte) → List Byte
  | some bytes => 1 :: bytes
  | none => 0 :: absent

/-! ## Notices (R191) -/

def EndCause.byte : EndCause → Byte
  | .endByte => 0
  | .idle => 1
  | .newStart => 2
  | .size => 3
  | .space => 4
  | .noise => 5
  | .brk => 6
  | .lineReset => 7

/-- A job's outcome and reason (R174, R191). -/
def JobEnd.bytes : JobEnd → List Byte
  | .done => [0, 0]
  | .cancelled => [1, 1]
  | .setterStalled => [2, 2]
  | .setterFault => [2, 3]
  | .lineReset => [2, 4]

def SignCause.byte : SignCause → Byte
  | .code => 0
  | .order => 1
  | .key => 2
  | .lineReset => 3

/-- The bytes of an absent field of a notice; R189 fixes them for a reply only (log 22). -/
def noticeAbsent (n : Nat) : List Byte := List.replicate n Config.noticeAbsent

/-- One segment's entry in a SET_DONE notice (R174, R191). -/
def segEntry (x : Segment × SegRun) : List Byte :=
  keyBytes x.1.key ++ be16 x.2.sent ++ be16 x.2.oversetLines ++ be16 x.2.oversetDepth

/-- The sum of a count over a job's segments (R174). -/
def sumOver (f : SegRun → Nat) (segs : List SegRun) : Nat := (segs.map f).sum

/-- The contents of a SET_DONE notice (R174, R191). DEDUCED (log 39): a story job carries the entry of its one segment, as
a notice that names a story carries its full key (R18). -/
def setDoneBytes (ch : Chan) (j : Job) (outcome : JobEnd) (segs : List SegRun) : List Byte :=
  let entries := j.segments.zip segs
  jobBytes ch j.number ++ [flagByte j.page] ++ outcome.bytes ++ be16 (sumOver SegRun.sent segs) ++
    be16 (sumOver SegRun.oversetLines segs) ++ be16 (sumOver (fun g => g.sentCounts.loose) segs) ++
    be16 (sumOver (fun g => g.sentCounts.overlong) segs) ++ be16 (sumOver (fun g => g.sentCounts.missing) segs) ++
    [byte8 entries.length] ++ entries.flatMap segEntry

def Totals.bytes (t : Totals) : List Byte := be16 t.depth ++ be16 t.lines ++ be16 t.loose ++ be16 t.overlong ++ be16 t.missing

/-- A notice's contents (R191). The values of their presence bytes are DEDUCED (log 57). -/
def Notice.contents : Notice → List Byte
  | .storyArrived k b p => keyBytes k ++ [byte8 b.val, p.byte]
  | .storyKilled k => keyBytes k
  | .storyPurged k => keyBytes k
  | .wireItem k l service item p count cause truncated superseded =>
    keyBytes k ++ [lineByte l, service] ++ be16 item ++ [p.byte] ++ be16 count ++
      [cause.byte, flagByte truncated, byte8 superseded]
  | .wireSuperseded old new service item => keyBytes old ++ keyBytes new ++ [service] ++ be16 item
  | .wireSkipped _ service item slug skipped => [0, service] ++ be16 item ++ textBytes slug ++ be16 skipped
  | .fitDone k f t => keyBytes k ++ [byte8 f.val] ++ t.bytes
  | .setDone ch j outcome segs => setDoneBytes ch j outcome segs
  | .setterState ch st reason job =>
    [st.byte, reasonByte reason] ++ withPresence (noticeAbsent 3) (job.map (jobBytes ch))
  | .storeLow free => be16 free
  | .lineFault _ noise => [flagByte noise]
  | .terminalSign _ on cause => [flagByte on.isSome, on.elim 0xFF fun p => byte8 p.val, cause.byte]
  | .badFrame gap tag count =>
    [flagByte gap] ++ withPresence (noticeAbsent 1) (tag.map fun t => [t]) ++ be16 count
  | .imageState r => r.bytes
  | .restarted reload r =>
    [flagByte reload] ++ withPresence (noticeAbsent 2) (r.map ImageResult.bytes)

/-! ## Frames (R177, R188) -/

/-- A frame: the lead byte, the length, the kind, the tag and the body. -/
def frameBytes (kind tag : Byte) (body : List Byte) : List Byte := 0xC3 :: (be16 (body.length + 2) ++ [kind, tag] ++ body)

/-- A notice's frame, with the overflow flag as given (R180, R188). -/
def Notice.frame (overflow : Bool) (n : Notice) : List Byte :=
  frameBytes n.kind 0 ([flagByte overflow, byte8 n.subject.1] ++ be16 n.subject.2 ++ n.contents)

/-- The results of R179. -/
inductive Res where
  | done
  | taken
  | unknownOrder
  | badArgument
  | noSuchStory
  | staleKey
  | storyHeld
  | storyInSet
  | storyKilled
  | storeFull
  | directoryFull
  | queueFull
  | wrongRole
  | roleLimit
  | noSuchJob
  | notRunning
  | notPermitted
deriving DecidableEq, Repr

/-- A result's code (R190). -/
def Res.byte : Res → Byte
  | .done => 0x00
  | .taken => 0x01
  | .unknownOrder => 0x11
  | .badArgument => 0x12
  | .noSuchStory => 0x13
  | .staleKey => 0x14
  | .storyHeld => 0x15
  | .storyInSet => 0x16
  | .storyKilled => 0x17
  | .storeFull => 0x18
  | .directoryFull => 0x19
  | .queueFull => 0x1A
  | .wrongRole => 0x1B
  | .roleLimit => 0x1C
  | .noSuchJob => 0x1D
  | .notRunning => 0x1E
  | .notPermitted => 0x1F

/-- A reply's frame (R179, R188). -/
def replyFrame (overflow : Bool) (f : Frame) (r : Res) (body : List Byte) : List Byte :=
  frameBytes f.kind f.tag ([r.byte, flagByte overflow] ++ body)

end Sys2Proof.Machine
end

