-- ==== Sys2Proof/Machine/Layout.lean ====
section
/-! DEFINITION. Screen wrap: how the edit engine lays a story's cells out as screen lines, and where the edit cursor moves
(R90, R91, R92). -/

namespace Sys2Proof.Machine

/-- A mark, as against a character or a word space (R2). -/
def Cell.isMark : Cell → Bool
  | .char _ | .space => false
  | _ => true

/-- The screen columns a cell takes (R90). -/
def Cell.cols (c : Cell) : Nat := if c.isMark then 2 else 1

def Cell.endsLine : Cell → Bool
  | .para | .line => true
  | _ => false

/-- The columns a run of cells takes. -/
def colsOf (cells : List Cell) : Nat := (cells.map Cell.cols).sum

/-- The most cells from the front that fit in `room` columns. -/
def fitCount : Nat → List Cell → Nat
  | _, [] => 0
  | room, c :: cs => if c.cols ≤ room then fitCount (room - c.cols) cs + 1 else 0

/-- The number of cells of the screen line that starts at the front of `cells`: a forced end, else all that is left if it
fits, else a break after the last word space that fits, else a split (R90). -/
def lineLength (cells : List Cell) : Nat :=
  let n := fitCount 80 cells
  let head := cells.take n
  match head.findIdx? Cell.endsLine with
  | some i => i + 1
  | none =>
    if n = cells.length then n
    else
      let tail := (head.reverse.dropWhile fun c => c != .space).length
      if tail = 0 then n else tail

/-- A screen line: the offset it starts at, and its cells. -/
structure ScreenLine where
  start : Nat
  cells : List Cell
deriving DecidableEq, Repr

/-- The screen lines of the cells left from `start` on. -/
def wrapFrom : Nat → Nat → List Cell → List ScreenLine
  | 0, _, _ => []
  | _, _, [] => []
  | fuel + 1, start, cells@(_ :: _) =>
    let n := lineLength cells
    { start := start, cells := cells.take n } :: wrapFrom fuel (start + n) (cells.drop n)

/-- The story end needs an empty screen line of its own after this last line (R90). -/
def ScreenLine.full (ln : ScreenLine) : Bool := colsOf ln.cells == 80 || ln.cells.getLast?.any Cell.endsLine

/-- The screen lines of a story, the last of them holding the story end (R90). -/
def screenLines (cells : List Cell) : List ScreenLine :=
  let lines := wrapFrom cells.length 0 cells
  match lines.getLast? with
  | none => [{ start := 0, cells := [] }]
  | some ln => if ln.full then lines ++ [{ start := cells.length, cells := [] }] else lines

/-- The index of the screen line an offset stands on: the last line that starts at or before it. -/
def lineIndex (lines : List ScreenLine) (off : Nat) : Nat := (lines.takeWhile fun ln => ln.start ≤ off).length - 1

def lineAt (lines : List ScreenLine) (i : Nat) : ScreenLine := lines.getD i { start := 0, cells := [] }

/-- The start of the screen line that holds an offset. -/
def lineStart (lines : List ScreenLine) (off : Nat) : Nat := (lineAt lines (lineIndex lines off)).start

/-- The first column of the cell at an offset, or the column of the story end. -/
def columnOf (lines : List ScreenLine) (off : Nat) : Nat :=
  let ln := lineAt lines (lineIndex lines off)
  colsOf (ln.cells.take (off - ln.start))

/-- The window top brought to the cursor: never below the cursor's line, and never 22 or more lines above it (R91). -/
def followTop (lines : List ScreenLine) (top cursor : Nat) : Nat :=
  let c := lineIndex lines cursor
  let t := lineIndex lines top
  if c < t then (lineAt lines c).start
  else if t + 22 ≤ c then (lineAt lines (c - 21)).start
  else (lineAt lines t).start

/-- The cell of a line whose columns include `col`, counting from the front; none past the line's end. -/
def cellAtCol : List Cell → Nat → Option Nat
  | [], _ => none
  | c :: cs, col => if col < c.cols then some 0 else (cellAtCol cs (col - c.cols)).map (· + 1)

/-- Where UP and DOWN put the cursor on line `i`: the cell at the column, else the line's last cell, or the story end if it
lies on the line (R92). -/
def offsetOnLine (lines : List ScreenLine) (i col : Nat) : Nat :=
  let ln := lineAt lines i
  match cellAtCol ln.cells col with
  | some k => ln.start + k
  | none => if i + 1 = lines.length then ln.start + ln.cells.length else ln.start + ln.cells.length - 1

/-- The offset after the first word space at or after `off`, else the story end (R92). -/
def wordRight (cells : List Cell) (off : Nat) : Nat :=
  let run := (cells.drop off).takeWhile fun c => c != .space
  Nat.min (off + run.length + 1) cells.length

/-- Back past the word spaces just before `off`, then back past cells that are not word spaces (R92). -/
def wordLeft (cells : List Cell) (off : Nat) : Nat :=
  let before := (cells.take off).reverse
  let words := before.dropWhile fun c => c == .space
  (words.dropWhile fun c => c != .space).length

/-- The keys that move the edit cursor (R92). -/
inductive Movement where
  | left
  | right
  | wordLeft
  | wordRight
  | lineStart
  | lineEnd
  | up
  | down
  | pageFwd
  | pageBack
deriving DecidableEq, Repr

/-- The edit cursor and window top after a movement key, or none where the key cannot move and rings the bell (R92). -/
def moveCursor (cells : List Cell) (m : Movement) (cursor top : Nat) : Option (Nat × Nat) :=
  let lines := screenLines cells
  let i := lineIndex lines cursor
  let t := lineIndex lines top
  let last := lines.length - 1
  let at' (c : Nat) : Option (Nat × Nat) := some (c, followTop lines top c)
  match m with
  | .left => if cursor = 0 then none else at' (cursor - 1)
  | .right => if cells.length ≤ cursor then none else at' (cursor + 1)
  | .wordRight => if cells.length ≤ cursor then none else at' (wordRight cells cursor)
  | .wordLeft => if cursor = 0 then none else at' (wordLeft cells cursor)
  | .lineStart => at' (lineAt lines i).start
  | .lineEnd =>
    let ln := lineAt lines i
    at' (if i = last then cells.length else ln.start + ln.cells.length - 1)
  | .up => if i = 0 then none else at' (offsetOnLine lines (i - 1) (columnOf lines cursor))
  | .down => if last ≤ i then none else at' (offsetOnLine lines (i + 1) (columnOf lines cursor))
  | .pageFwd =>
    if last ≤ t then none
    else
      let top' := (lineAt lines (Nat.min (t + 22) last)).start
      some (top', top')
  | .pageBack =>
    if top = 0 then none
    else
      let top' := (lineAt lines (t - 22)).start
      some (top', top')

end Sys2Proof.Machine
end

