-- ==== Sys2Proof/Machine/FitUnit.lean ====
section
/-! DEFINITION. The fit queue: requests, the fitter's take of the head entry, and what spoils, outdates and drops a fit
(R149 to R154). -/

namespace Sys2Proof.Machine

/-- A line fitter before the first line of a story (R148, R151). -/
def Fitter.start : Fitter :=
  { place := 0, line := none, paraStart := true, first := true, totals := { depth := 0, lines := 0, loose := 0, overlong := 0, missing := 0 } }

/-- What the fit unit holds when the fitter takes an entry: clear flags and fresh copies (R130, R151). -/
def State.freshFit (s : State) (f : FormatNo) : FitRun :=
  { spoiled := false, outdated := false, again := false, formatNo := f, format := s.formats[f], widths := s.widths,
    fitter := Fitter.start }

def FitEntry.isFor (sid : Sid) (e : FitEntry) : Bool := e.key.sid == sid

/-- The queue holds an entry for the story, and its depth field shows "FITTING" (R72, R150). -/
def State.fitting (s : State) (sid : Sid) : Bool := s.fitQueue.any (FitEntry.isFor sid)

/-- The idle fitter takes the head entry (R151). -/
def State.takeFit (s : State) : State :=
  match s.fitQueue with
  | [] => s
  | e :: rest =>
    match e.active, s.story? e.key.sid with
    | none, some st => { s with fitQueue := { e with active := some (s.freshFit st.format) } :: rest }
    | _, _ => s

/-- The story's request is dropped, waiting or active; an idle fitter then takes the next head (R153). -/
def State.dropFit (sid : Sid) (s : State) : State :=
  if s.fitting sid then State.takeFit { s with fitQueue := s.fitQueue.filter fun e => !e.isFor sid } else s

/-- Changes the flags of the active entry of a story. -/
def FitEntry.flag (p : FitEntry → Bool) (f : FitRun → FitRun) (e : FitEntry) : FitEntry :=
  if p e then { e with active := e.active.map f } else e

/-- A text change to the story sets the spoiled flag of its active entry (R152). -/
def State.spoilFit (sid : Sid) (s : State) : State :=
  { s with fitQueue := s.fitQueue.map (FitEntry.flag (FitEntry.isFor sid) fun r => { r with spoiled := true }) }

/-- A format or width load sets the outdated flag of the active entry (R154). -/
def State.outdateFit (s : State) : State :=
  { s with fitQueue := s.fitQueue.map (FitEntry.flag (fun _ => true) fun r => { r with outdated := true }) }

/-- An outdated fit of the story is to be repeated (R150). -/
def FitEntry.askAgain (sid : Sid) : FitEntry → FitEntry :=
  FitEntry.flag (FitEntry.isFor sid) fun r => if r.outdated then { r with again := true } else r

/-- A fit request for a story that passed its checks; none when the queue is full (R150). -/
def State.requestFit (sid : Sid) (s : State) : Option State :=
  if s.fitting sid then some { s with fitQueue := s.fitQueue.map (FitEntry.askAgain sid) }
  else if s.fitQueue.length < 16 then
    some (State.takeFit { s with fitQueue := s.fitQueue ++ [{ key := s.keyOf sid, active := none }] })
  else none

end Sys2Proof.Machine
end

