-- ==== Sys2Proof/Machine/Baskets.lean ====
section
/-! DEFINITION. Baskets: entry, exit and order (R26 to R30), alerts (R40, R41), dropped reviewers (R108), and the freeing of
a record (R20). -/

namespace Sys2Proof.Machine

/-- A story's priority; ROUTINE for a FREE record. -/
def State.prio (s : State) (sid : Sid) : Prio := (s.story? sid).elim .routine Story.prio

/-- A story placed at the tail of its priority band (R26, R27). -/
def bandInsert (rank : Sid → Nat) (sid : Sid) (l : List Sid) : List Sid :=
  (l.takeWhile fun x => rank sid ≤ rank x) ++ sid :: l.dropWhile fun x => rank sid ≤ rank x

/-- The story stands in this basket's list at the place R26 gives it: the tail of its band, or the tail of SPIKE. -/
def State.placeIn (b : BasketNo) (sid : Sid) (s : State) : State :=
  if b = spikeBasket then s.setStories b (s.stories b ++ [sid])
  else s.setStories b (bandInsert (fun x => (s.prio x).rank) sid (s.stories b))

/-- An alert for a FLASH or URGENT story is offered to every signed-on session that watches the basket, but not to the
session on the line that made the move by its own key (R40). -/
def State.raiseAlert (b : BasketNo) (sid : Sid) (mover : Option LineNo) (s : State) : State :=
  if s.prio sid = .routine then s
  else s.modSessions fun l ss =>
    if ss.signedOn && (s.profileOf ss).any (fun p => inMask p.watch b) && mover != some l then
      ss.offerAlert s.term { basket := b, sid := sid, prio := s.prio sid }
    else ss

/-- The rows of the text window from the row of a list position onward, on a DIRECTORY session showing the basket (R27). -/
def Session.markFrom (b : BasketNo) (position : Nat) (ss : Session) : Session :=
  match ss.view with
  | some v =>
    if ss.state = .directory && v.basket == some b then ss.markRows (Nat.max 1 (position + 1 - v.top)) 22 else ss
  | none => ss

/-- Marks the rows from a list position onward on every DIRECTORY session showing the basket (R27, R28). -/
def State.markBasket (b : BasketNo) (position : Nat) (s : State) : State :=
  s.modSessions fun _ => Session.markFrom b position

/-- Basket entry into a basket 0 to 22 (R27): the story takes its place, is OPEN there, STORY_ARRIVED is queued and alerts
are raised. `mover` is the line whose own key made the move. -/
def State.enterBasket (b : BasketNo) (sid : Sid) (mover : Option LineNo) (s : State) : State :=
  let s := (s.modStory sid fun st => { st with place := .opn b }).placeIn b sid
  let s := s.offer (.storyArrived (s.keyOf sid) b (s.prio sid))
  (s.raiseAlert b sid mover).markBasket b ((s.stories b).findIdx (· == sid))

/-- Basket entry into SPIKE (R27): the story is KILLED, at the tail. -/
def State.enterSpike (sid : Sid) (s : State) : State :=
  let s := (s.modStory sid fun st => { st with place := .killed }).placeIn spikeBasket sid
  s.markBasket spikeBasket ((s.stories spikeBasket).findIdx (· == sid))

def Place.basket? : Place → Option BasketNo
  | .opn b => some b
  | .killed => some spikeBasket
  | _ => none

/-- The story leaves a basket: those behind it move up, alerts naming it there clear (R28, R41). -/
def State.leaveBasket (b : BasketNo) (sid : Sid) (s : State) : State :=
  let position := (s.stories b).findIdx (· == sid)
  let s := s.setStories b ((s.stories b).filter (· != sid))
  (s.modSessions fun _ ss => if ss.alert.any (fun a => a.basket == b && a.sid == sid) then ss.clearAlert else ss).markBasket
    b position

/-- Basket exit of a story from the basket it stands in, if it stands in one (R28). -/
def State.exitBasket (sid : Sid) (s : State) : State :=
  match (s.story? sid).bind fun st => st.place.basket? with
  | some b => s.leaveBasket b sid
  | none => s

/-- Adds a move at the front of a route history; a fifth entry pushes out the oldest (R22). -/
def Story.addMove (m : Move) (st : Story) : Story := { st with route := (m :: st.route).take 4 }

/-- A move into a basket with its route history entry, made when the target differs from where the story came (R30). -/
def Story.sendTo (source target : BasketNo) (mover : Mover) (st : Story) : Story :=
  let st := if source = target then st else st.addMove { source := source, target := target, mover := mover }
  { st with home := target }

/-- Every reviewer of the story is dropped: its session in REVIEW returns to DIRECTORY with a message (R33, R108). -/
def State.dropReviewers (sid : Sid) (message : List Byte) (s : State) : State :=
  let lines := (s.story? sid).elim [] Story.reviewers
  (s.modStory sid fun st => { st with reviewers := [] }).modSessions fun l ss =>
    if lines.contains l && ss.state = .review && ss.shows sid then ss.toDirectory.say message else ss

/-- A line leaves a story's reviewer list; those after it move up (R16). -/
def State.unreview (l : LineNo) (sid : Sid) (s : State) : State :=
  s.modStory sid fun st => { st with reviewers := st.reviewers.filter (· != l) }

/-- A record is freed: its blocks return to the free set, it leaves its basket, its generation advances, and any fit request
for it is dropped (R20, R153). -/
def State.freeStory (sid : Sid) (s : State) : State :=
  let chain := (s.story? sid).elim [] Story.chain
  let s := { s with store := s.store.filter fun x => !chain.contains x.1 }.exitBasket sid
  (s.setRec sid { gen := (s.dir[sid].gen + 1) % 256, story := none }).dropFit sid

/-- A purge: the record is freed and STORY_PURGED queued with the key before freeing (R11, R12, R18, R35). -/
def State.purgeStory (sid : Sid) (s : State) : State :=
  let k := s.keyOf sid
  (s.freeStory sid).offer (.storyPurged k)

/-- A kill's steps 1 to 3: the story leaves its place, its reviewers are dropped with "KILLED", it enters SPIKE; its fit
request is dropped (R33, R153). -/
def State.spikeStory (sid : Sid) (s : State) : State :=
  (((s.exitBasket sid).dropReviewers sid (ascii "KILLED")).enterSpike sid).dropFit sid

end Sys2Proof.Machine
end

