-- ==== Sys2Proof/Machine/Store.lean ====
section
/-! DEFINITION. The copy store: blocks and chains, allocation with reclaim, and the single-cell and multi-cell text changes
(R1 to R13, R21), and the allocation of a record (R19). -/

namespace Sys2Proof.Machine

/-! ## Blocks (R3, R4) -/

/-- The cells of a block; a free block holds none. -/
def blockCells (store : List Block) (b : Nat) : List Cell := (store.find? fun x => x.1 == b).elim [] Prod.snd

/-- Writes a block's cells, keeping the numbers rising; a block left with no cells returns to the free set (R3). -/
def putBlock (b : Nat) (cells : List Cell) : List Block → List Block
  | [] => if cells.isEmpty then [] else [(b, cells)]
  | x :: rest =>
    if x.1 < b then x :: putBlock b cells rest
    else if x.1 = b then if cells.isEmpty then rest else (b, cells) :: rest
    else if cells.isEmpty then x :: rest else (b, cells) :: x :: rest

/-- The store is in its one form: block numbers strictly rising and below 4096, each block with 1 to 64 cells (R3). -/
def storeWf (store : List Block) : Bool :=
  decide ((store.map Prod.fst).Pairwise (· < ·)) &&
    store.all fun x => decide (x.1 < 4096) && !x.2.isEmpty && decide (x.2.length ≤ 64)

/-- The free count (R3, R9). -/
def State.freeBlockCount (s : State) : Nat := 4096 - s.store.length

/-- The n lowest-numbered free blocks (R9). -/
def lowestFree (n : Nat) (store : List Block) : List Nat :=
  ((List.range 4096).filter fun b => !(store.any fun x => x.1 == b)).take n

/-- A story's text: the cells of its chain in order (R3). -/
def chainText (store : List Block) (chain : List Nat) : List Cell := chain.flatMap (blockCells store)

def State.chainOf (s : State) (sid : Sid) : List Nat := (s.story? sid).elim [] Story.chain

def State.text (s : State) (sid : Sid) : List Cell := chainText s.store (s.chainOf sid)

/-- The block that holds cell p of a chain, and the cell's offset in it; none at or beyond the story end (R4). -/
def locate (store : List Block) : List Nat → Nat → Option (Nat × Nat)
  | [], _ => none
  | b :: bs, p =>
    let n := (blockCells store b).length
    if p < n then some (b, p) else locate store bs (p - n)

/-! ## Allocation and reclaim (R9 to R13) -/

/-- The class of an allocation request (R10). -/
inductive AllocClass where
  | edit
  | wire
  | order
deriving DecidableEq, Repr

/-- Why the store refuses a request (R10). -/
inductive Cause where
  | sizeLimit
  | noSpace
deriving DecidableEq, Repr

/-- The free count meets the class's condition for n blocks (R10). -/
def State.meets (s : State) (cls : AllocClass) (n : Nat) : Bool :=
  match cls with
  | .edit => decide (n ≤ s.freeBlockCount)
  | .wire | .order => decide (n + 64 ≤ s.freeBlockCount)

/-- Reclaim from SPIKE: its head is purged, again and again, until the condition is met or SPIKE is empty (R11). -/
def reclaimSpike (cls : AllocClass) (n : Nat) : Nat → State → State
  | 0, s => s
  | fuel + 1, s =>
    if s.meets cls n then s
    else
      match s.stories spikeBasket with
      | [] => s
      | sid :: _ => reclaimSpike cls n fuel (s.purgeStory sid)

/-- A story in WIRE that reclaim may take: OPEN, unreviewed, never moved (R12). -/
def Story.reclaimable (st : Story) : Bool := st.place == .opn wireBasket && st.reviewers.isEmpty && st.route.isEmpty

/-- The candidates of WIRE in reclaim order: ROUTINE, then URGENT, then FLASH, each from the head (R12). -/
def State.wireCandidates (s : State) : List Sid :=
  let all := (s.stories wireBasket).filter fun sid => (s.story? sid).any Story.reclaimable
  [Prio.routine, .urgent, .flash].flatMap fun p => all.filter fun sid => s.prio sid == p

/-- Reclaim from WIRE: candidates are purged in order until the condition is met (R12). -/
def reclaimWire (n : Nat) : List Sid → State → State
  | [], s => s
  | sid :: rest, s => if s.meets .wire n then s else reclaimWire n rest (s.purgeStory sid)

/-- Reclaim for a request: from SPIKE, and then for class WIRE from WIRE (R10). -/
def State.reclaim (cls : AllocClass) (n : Nat) (s : State) : State :=
  let s := reclaimSpike cls n (s.stories spikeBasket).length s
  match cls with
  | .wire => reclaimWire n s.wireCandidates s
  | .edit | .order => s

/-- The store's answer to a request. -/
inductive Alloc where
  | granted (blocks : List Nat)
  | refused (cause : Cause)
deriving DecidableEq, Repr

/-- An allocation that lowers the free count from 64 or more to below 64 queues STORE_LOW (R13). -/
def State.storeLow (n : Nat) (s : State) : State :=
  if 64 ≤ s.freeBlockCount ∧ s.freeBlockCount - n < 64 then s.offer (.storeLow (s.freeBlockCount - n)) else s

/-- A request for n blocks for a story: the size limit, the reserve, and reclaim (R10). What was reclaimed stays so. -/
def State.allocate (cls : AllocClass) (sid : Sid) (n : Nat) (s : State) : Alloc × State :=
  if 192 < (s.chainOf sid).length + n then (.refused .sizeLimit, s)
  else
    let s := if s.meets cls n then s else s.reclaim cls n
    if s.meets cls n then (.granted (lowestFree n s.store), s.storeLow n) else (.refused .noSpace, s)

/-! ## Text changes (R5 to R8, R21) -/

/-- A mark as the store writes it: FONT, SIZE and LEAD values clamped into range (R2). -/
def Cell.clamped : Cell → Cell
  | .font f => .font (Nat.min f 15)
  | .size z => .size (Nat.max 12 (Nat.min z 144))
  | .lead v => .lead (Nat.max 12 (Nat.min v 288))
  | c => c

def State.setStore (store : List Block) (s : State) : State := { s with store := store }

def State.setChain (sid : Sid) (chain : List Nat) (s : State) : State := s.modStory sid fun st => { st with chain := chain }

/-- The directory's and the fit unit's part of a text change: the cell count, the stale flag, a spoiled fit (R21). -/
def State.textChanged (sid : Sid) (s : State) : State :=
  (s.modStory sid fun st =>
    { st with
      count := (chainText s.store st.chain).length
      depth := st.depth.map fun d => { d with stale := true } }).spoilFit sid

/-- A block number put into a chain immediately after another. -/
def insertAfter (b new : Nat) (chain : List Nat) : List Nat := chain.flatMap fun x => if x = b then [x, new] else [x]

/-- The cells of a full block after a split at local offset j, with the new cell in the half that holds its position (R6). -/
def splitCells (cells : List Cell) (j : Nat) (c : Cell) : List Cell × List Cell :=
  if j ≤ 32 then ((cells.take 32).insertIdx j c, cells.drop 32)
  else (cells.take 32, (cells.drop 32).insertIdx (j - 32) c)

/-- One cell inserted before offset p, or at the story end (R5, R6); the text change's other effects follow by R21. -/
def State.insertCell (cls : AllocClass) (sid : Sid) (p : Nat) (cell : Cell) (s : State) : Option Cause × State :=
  let c := cell.clamped
  let chain := s.chainOf sid
  match locate s.store chain p with
  | some (b, j) =>
    let cells := blockCells s.store b
    if cells.length < 64 then (none, (s.setStore (putBlock b (cells.insertIdx j c) s.store)).textChanged sid)
    else
      match s.allocate cls sid 1 with
      | (.refused cause, s) => (some cause, s)
      | (.granted blocks, s) =>
        let new := blocks.headD 0
        let halves := splitCells cells j c
        let s := s.setStore (putBlock new halves.2 (putBlock b halves.1 s.store))
        (none, (s.setChain sid (insertAfter b new chain)).textChanged sid)
  | none =>
    let last := chain.getLastD 0
    let cells := if chain.isEmpty then [] else blockCells s.store last
    if !chain.isEmpty && cells.length < 64 then
      (none, (s.setStore (putBlock last (cells ++ [c]) s.store)).textChanged sid)
    else
      match s.allocate cls sid 1 with
      | (.refused cause, s) => (some cause, s)
      | (.granted blocks, s) =>
        let new := blocks.headD 0
        let s := s.setStore (putBlock new [c] s.store)
        (none, (s.setChain sid (chain ++ [new])).textChanged sid)

/-- The block after `b` in a chain. -/
def successor (b : Nat) : List Nat → Option Nat
  | x :: y :: rest => if x = b then some y else successor b (y :: rest)
  | _ => none

/-- One cell removed from a chain: a block left empty leaves the chain, and a block left with fewer than 16 cells takes in
its successor when the two fit in 64 (R7). -/
def removeCell (store : List Block) (chain : List Nat) (p : Nat) : List Block × List Nat :=
  match locate store chain p with
  | none => (store, chain)
  | some (b, j) =>
    let cells := (blockCells store b).eraseIdx j
    if cells.isEmpty then (putBlock b [] store, chain.filter (· != b))
    else
      match successor b chain with
      | some n =>
        let next := blockCells store n
        if cells.length < 16 ∧ cells.length + next.length ≤ 64 then
          (putBlock n [] (putBlock b (cells ++ next) store), chain.filter (· != n))
        else (putBlock b cells store, chain)
      | none => (putBlock b cells store, chain)

/-- n cells removed one by one from offset p (R8). -/
def removeCells (p : Nat) : Nat → List Block × List Nat → List Block × List Nat
  | 0, x => x
  | n + 1, x => removeCells p n (removeCell x.1 x.2 p)

/-- n cells removed from offset p as one text change (R7, R8). -/
def State.deleteCells (sid : Sid) (p n : Nat) (s : State) : State :=
  let x := removeCells p n (s.store, s.chainOf sid)
  ((s.setStore x.1).setChain sid x.2).textChanged sid

/-- A cell written over the cell at offset p (R8). -/
def State.replaceCell (sid : Sid) (p : Nat) (cell : Cell) (s : State) : State :=
  match locate s.store (s.chainOf sid) p with
  | none => s
  | some (b, j) =>
    (s.setStore (putBlock b ((blockCells s.store b).set j cell.clamped) s.store)).textChanged sid

/-- Cells written into granted blocks, each filled to 64 before the next is begun (R8). -/
def fillBlocks : List Nat → List Cell → List Block → List Block
  | [], _, store => store
  | b :: bs, cells, store => fillBlocks bs (cells.drop 64) (putBlock b (cells.take 64) store)

/-- Cells appended at the story end as one change: the blocks needed are asked for in one request, or none is asked for when
the last block has room (R8, R10). With no cell there is no text change (R2). -/
def State.appendCells (cls : AllocClass) (sid : Sid) (new : List Cell) (s : State) : Option Cause × State :=
  if new.isEmpty then (none, s)
  else
    let new := new.map Cell.clamped
    let chain := s.chainOf sid
    let last := chain.getLastD 0
    let cells := if chain.isEmpty then [] else blockCells s.store last
    let room := if chain.isEmpty then 0 else 64 - cells.length
    let write (blocks : List Nat) (s : State) : State :=
      let store := if room = 0 then s.store else putBlock last (cells ++ new.take room) s.store
      ((s.setStore (fillBlocks blocks (new.drop room) store)).setChain sid (chain ++ blocks)).textChanged sid
    if new.length ≤ room then (none, write [] s)
    else
      match s.allocate cls sid ((new.length - room + 63) / 64) with
      | (.refused cause, s) => (some cause, s)
      | (.granted blocks, s) => (none, write blocks s)

/-! ## Record allocation (R19) -/

def State.lowestFreeRecord (s : State) : Option Sid := (List.finRange 512).find? fun sid => s.dir[sid].story.isNone

/-- The record a new story takes: the lowest-numbered FREE one, or the one a purge of SPIKE's head frees (R19). -/
def State.takeRecord (s : State) : Option Sid × State :=
  match s.lowestFreeRecord with
  | some sid => (some sid, s)
  | none =>
    match s.stories spikeBasket with
    | [] => (none, s)
    | sid :: _ =>
      let s := s.purgeStory sid
      (s.lowestFreeRecord, s)

/-- A new record's values besides those its creator gives (R19). -/
def Story.new (slug : List Byte) (prio : Prio) (origin : Origin) (home : BasketNo) (place : Place) (format : FormatNo) : Story :=
  { slug := slug, prio := prio, origin := origin, home := home, place := place, reviewers := [], format := format,
    chain := [], count := 0, depth := none, setCount := 0, route := [], truncated := false, overset := false }

def State.createStory (sid : Sid) (st : Story) (s : State) : State := s.setRec sid { s.dir[sid] with story := some st }

end Sys2Proof.Machine
end

