-- ==== Sys2Proof/Machine/Screen.lean ====
section
/-! DEFINITION. What a terminal's screen is to show (R65, R71 to R75, R84, R90, R91), the marking of changed rows, and the
bytes a session sends (R76 to R78, R80, R193). -/

namespace Sys2Proof.Machine

/-! ## Rows -/

def SCell.blank : SCell := { code := 0x20, inverse := false, blink := false }

def Row.blank : Row := List.replicate 80 SCell.blank

/-- A text with no attributes. -/
def plain (t : List Byte) : List SCell := t.map fun c => { code := c, inverse := false, blink := false }

/-- Cells put over a row from a column on. -/
def putAt (col : Nat) (t : List SCell) (r : Row) : Row := (r.take col ++ t ++ r.drop (col + t.length)).take 80

/-- A text right-aligned in a width. -/
def rightAlign (width : Nat) (t : List Byte) : List Byte := List.replicate (width - t.length) 0x20 ++ t

/-- A text left-aligned and padded with blanks. -/
def leftAlign (width : Nat) (t : List Byte) : List Byte := t.take width ++ List.replicate (width - t.length) 0x20

def Row.invert (r : Row) : Row := r.map fun c => { c with inverse := true }

/-! ## The view list (R74) -/

def Place.isOut : Place → Bool
  | .held _ | .queued .. | .setting .. => true
  | _ => false

/-- The stories homed in a basket that are HELD, QUEUED or SETTING, in rising story number; SPIKE has none (R74). -/
def State.outPart (s : State) (b : BasketNo) : List Sid :=
  if b = spikeBasket then []
  else (List.finRange 512).filter fun sid => (s.story? sid).any fun st => st.home == b && st.place.isOut

/-- The view list of a basket: the basket part, then the out part (R74). -/
def State.viewList (s : State) (b : BasketNo) : List Sid := s.stories b ++ s.outPart b

def State.viewOf (s : State) (v : View) : List Sid := v.basket.elim [] s.viewList

/-- The depth of a story in points and lines, or asterisks where that is too long (R72). -/
def depthText (d : Depth) : List Byte :=
  let t := decimal (d.halfPoints / 2) ++ (if d.halfPoints % 2 = 1 then ascii ".5" else []) ++ ascii "P " ++ decimal d.lines ++ ascii "L"
  if 12 < t.length then List.replicate 12 0x2A else t

/-- The depth field of a story: "FITTING", "~" or the depth, right-aligned in 12 columns (R72). -/
def State.depthField (s : State) (sid : Sid) (st : Story) : List Byte :=
  rightAlign 12 <|
    if s.fitting sid then ascii "FITTING"
    else
      match st.depth with
      | none => ascii "~"
      | some d => if d.stale then ascii "~" else depthText d

/-- Columns 38 to 42 of an entry of the out part (R74). -/
def Place.outText : Place → List Byte
  | .held l => lineName l
  | .queued ch _ | .setting ch _ => ascii "SET " ++ chanName ch
  | _ => []

def Prio.marker : Prio → List SCell
  | .flash => [{ code := 0x46, inverse := false, blink := true }]
  | .urgent => plain (ascii "U")
  | .routine => plain (ascii " ")

/-- The row of a view list entry, before highlighting (R74). -/
def State.entryRow (s : State) (sid : Sid) : Row :=
  match s.story? sid with
  | none => Row.blank
  | some st =>
    Row.blank
      |> putAt 0 st.prio.marker
      |> putAt 2 (plain st.slug)
      |> putAt 19 (plain (rightAlign 5 (decimal st.count)))
      |> putAt 25 (plain (s.depthField sid st))
      |> putAt 38 (plain st.place.outText)
      |> putAt 44 (plain (ascii (if st.truncated then "T" else " ")))
      |> putAt 45 (plain (ascii (if st.overset then "O" else " ")))

/-- An entry of a view list: its story, where the story stands, and the row it is shown as. -/
structure ViewEntry where
  sid : Sid
  place : Option Place
  row : Row
deriving DecidableEq, Repr

/-- The entries of a basket's view list. A story that enters or leaves HELD, QUEUED or SETTING changes its entry even where
its row reads as before (R74). -/
def State.viewEntries (s : State) (b : BasketNo) : List ViewEntry :=
  (s.viewList b).map fun sid => { sid := sid, place := (s.story? sid).map Story.place, row := s.entryRow sid }

/-- The view with its highlight brought within the list, and its top brought to the highlight (R75). -/
def View.within (length : Nat) (v : View) : View :=
  let h := Nat.min v.highlight (length - 1)
  { v with highlight := h, top := if h < v.top then h else if v.top + 22 ≤ h then h - 21 else v.top }

/-! ## Row 0 (R72, R73, R84) -/

def Alert.word : Prio → List Byte
  | .flash => ascii "FLASH "
  | _ => ascii "URGENT "

/-- The alert text, with the slug and the basket name as they stand (R73). -/
def State.alertText (s : State) (a : Alert) : List Byte :=
  Alert.word a.prio ++ (s.story? a.sid).elim [] Story.slug ++ ascii " IN " ++ s.baskets[a.basket].name

/-- The message area, columns 45 to 79: a message, else the alert, a FLASH one in inverse, else blank (R73, R84). DESIGN
CHOICE (log 51): a message that hides a FLASH alert is shown with no attribute. -/
def State.messageArea (s : State) (ss : Session) : List SCell :=
  match ss.message, ss.alert with
  | some m, _ => plain (leftAlign 35 m)
  | none, some a =>
    let t := plain (leftAlign 35 (s.alertText a))
    if a.prio = .flash then t.map fun c => { c with inverse := true } else t
  | none, none => plain (leftAlign 35 [])

/-- Row 0 is blank: a FLASH alert is shown and the blink phase is OFF (R84). -/
def Session.blinkedOut (ss : Session) : Bool :=
  ss.message.isNone && ss.alert.any (fun a => a.prio == .flash) && !ss.blinkOn

/-- The basket a story is in, or its home basket when it is in none (R72). -/
def Story.basketShown (st : Story) : BasketNo := st.place.basket?.getD st.home

/-- The five fields of row 0 (R72). -/
def State.statusFields (s : State) (ss : Session) : Row :=
  let fields : Row :=
    match ss.state with
    | .dark => Row.blank
    | .directory =>
      let v := ss.view.getD { basket := none, top := 0, highlight := 0 }
      Row.blank
        |> putAt 0 (plain ((s.profileOf ss).elim [] Profile.name))
        |> putAt 17 (plain (v.basket.elim [] fun b => s.baskets[b].name))
        |> putAt 26 (plain (rightAlign 5 (decimal (s.viewOf v).length)))
    | .edit | .review =>
      match ss.edit.bind fun e => (s.story? e.key.sid).map fun st => (e.key.sid, st) with
      | none => Row.blank
      | some (sid, st) =>
        Row.blank
          |> putAt 0 (plain st.slug)
          |> putAt 17 (plain s.baskets[st.basketShown].name)
          |> putAt 26 (plain (rightAlign 5 (decimal st.count)))
          |> putAt 32 (plain (s.depthField sid st))
  putAt 45 (s.messageArea ss) fields

/-- Row 0: its fields, or blank in the OFF phase of a FLASH alert that is shown (R72, R84). -/
def State.statusRow (s : State) (ss : Session) : Row := if ss.blinkedOut then Row.blank else s.statusFields ss

/-- The line holds the story or reviews it: a change of the story's values reaches its session's row 0 (R72). -/
def Story.follows (l : LineNo) (st : Story) : Bool := st.place.isHeldBy l || st.reviewers.contains l

/-- Row 0 marked on the story's holder and on every reviewer, whatever their sessions show, and on a session that shows the
story (R72, R98, R157). -/
def State.markShown (sid : Sid) (s : State) : State :=
  s.modSessions fun l ss => if ss.shows sid || (s.story? sid).any (Story.follows l) then ss.markRow 0 else ss

/-- The values of a story that a row 0 shows: its slug, the name of its basket, its cell count and its depth field (R72). The
name is the one that the baskets of `named` bear. -/
def State.rowValues (named s : State) (sid : Sid) : Option (List Byte × List Byte × Nat × List Byte) :=
  (s.story? sid).map fun st => (st.slug, named.baskets[st.basketShown].name, st.count, s.depthField sid st)

/-- An event has changed a value of a story that the line holds or reviews, or that its session shows (R72). A new name of the
story's basket is no change of the story's values: it is marked where it is shown (R25). -/
def State.valuesChanged (before after : State) (l : LineNo) (ss : Session) : Bool :=
  (List.finRange 512).any fun sid =>
    (ss.shows sid || (after.story? sid).any (Story.follows l)) && after.rowValues before sid != after.rowValues after sid

/-- Marks the row that lists a story on every DIRECTORY session that shows it (R98, R157). -/
def State.markListed (sid : Sid) (s : State) : State :=
  s.modSessions fun _ ss =>
    match ss.state, ss.view with
    | .directory, some v =>
      match (s.viewOf v).findIdx? (· == sid) with
      | some i => if v.top ≤ i ∧ i < v.top + 22 then ss.markRows (i + 1 - v.top) (i + 1 - v.top) else ss
      | none => ss
    | _, _ => ss

/-- A session's row 0 shows a basket's name: as the basket of its view, as the basket of its story, or in its alert's text
(R25, R72, R73). -/
def State.showsName (s : State) (b : BasketNo) (ss : Session) : Bool :=
  (match ss.state with
    | .dark => false
    | .directory => ss.view.any fun v => v.basket == some b
    | .edit | .review => ss.edit.any fun e => (s.story? e.key.sid).any fun st => st.basketShown == b) ||
  (ss.message.isNone && ss.alert.any fun a => a.basket == b)

/-- Row 0 marked on every session that shows a basket's name (R25). -/
def State.markNamed (b : BasketNo) (s : State) : State :=
  s.modSessions fun _ ss => if s.showsName b ss then ss.markRow 0 else ss

/-! ## Text rows (R90, R91) -/

/-- The two-character token of a mark (R90). -/
def Cell.token : Cell → List Byte
  | .para => ascii "PA"
  | .line => ascii "LN"
  | .font f => [0x46, hexDigit f]
  | .size _ => ascii "SZ"
  | .lead _ => ascii "LD"
  | .mode .justify => ascii "MJ"
  | .mode .left => ascii "ML"
  | .mode .right => ascii "MR"
  | .mode .center => ascii "MC"
  | .en => ascii "NS"
  | .em => ascii "MS"
  | .thin => ascii "TS"
  | .hard => ascii "HS"
  | .dhyph => ascii "DH"
  | .noteOn => ascii "N["
  | .noteOff => ascii "N]"
  | .char _ | .space => []

/-- How a cell shows (R90). -/
def Cell.shown : Cell → List SCell
  | .char c => plain [c]
  | .space => [SCell.blank]
  | m => (plain m.token).map fun c => { c with inverse := true }

/-- A mark's name with its value, for row 23 (R91). -/
def Cell.markName : Cell → List Byte
  | .para => ascii "PARA"
  | .line => ascii "LINE"
  | .font f => ascii "FONT " ++ decimal f
  | .size z => ascii "SIZE " ++ decimal z
  | .lead v => ascii "LEAD " ++ decimal v
  | .mode .justify => ascii "MODE JUSTIFY"
  | .mode .left => ascii "MODE LEFT"
  | .mode .right => ascii "MODE RIGHT"
  | .mode .center => ascii "MODE CENTER"
  | .en => ascii "EN"
  | .em => ascii "EM"
  | .thin => ascii "THIN"
  | .hard => ascii "HARD"
  | .dhyph => ascii "DHYPH"
  | .noteOn => ascii "NOTE-ON"
  | .noteOff => ascii "NOTE-OFF"
  | .char _ | .space => []

/-- Row 23 in EDIT and REVIEW (R91). -/
def commandRow (review : Bool) (e : Edit) (cells : List Cell) : List Byte :=
  match e.entry with
  | none =>
    (if review then ascii "READ" else if e.overstrike then ascii "OVR" else ascii "INS") ++ ascii " AT " ++ decimal e.cursor ++
      ascii " OF " ++ decimal cells.length ++
      (match cells[e.cursor]? with
        | some c => if c.isMark then ascii "  " ++ c.markName else []
        | none => [])
  | some (.mark t) => ascii "MARK " ++ t
  | some (.slug t) => ascii "SLUG " ++ t
  | some (.send t) => ascii "SEND TO " ++ t
  | some .priority => ascii "PRIORITY 1-3"

/-! ## The whole image (R65, R71, R74, R75, R90) -/

/-- A row of the DARK screen (R65). -/
def State.darkRow (s : State) (ss : Session) (r : Nat) : Row :=
  if r = 11 then putAt ((80 - s.term.banner.length) / 2) (plain s.term.banner) Row.blank
  else if r = 23 then putAt 0 (plain (ascii "CODE " ++ List.replicate ss.code.length 0x2A)) Row.blank
  else Row.blank

/-- A row of DIRECTORY view: view list entries on rows 1 to 22, the view position on row 23 (R74, R75). -/
def State.directoryRow (s : State) (v : View) (r : Nat) : Row :=
  let list := s.viewOf v
  if r = 23 then
    putAt 0 (plain (decimal (if list.isEmpty then 0 else v.highlight + 1) ++ ascii " OF " ++ decimal list.length)) Row.blank
  else
    let i := v.top + (r - 1)
    match list[i]? with
    | none => Row.blank
    | some sid => if i = v.highlight then Row.invert (s.entryRow sid) else s.entryRow sid

/-- A row of EDIT or REVIEW: screen lines on rows 1 to 22, the command line on row 23 (R91). -/
def State.textRow (s : State) (review : Bool) (e : Edit) (r : Nat) : Row :=
  let cells := s.text e.key.sid
  if r = 23 then putAt 0 (plain (commandRow review e cells)) Row.blank
  else
    let lines := screenLines cells
    putAt 0 ((lineAt lines (lineIndex lines e.top + (r - 1))).cells.flatMap Cell.shown) Row.blank

/-- What row r of a session's screen is to show. -/
def State.imageRow (s : State) (ss : Session) (r : Fin 24) : Row :=
  if r.val = 0 then s.statusRow ss
  else
    match ss.state with
    | .dark => s.darkRow ss r.val
    | .directory => s.directoryRow (ss.view.getD { basket := none, top := 0, highlight := 0 }) r.val
    | .edit => ss.edit.elim Row.blank fun e => s.textRow false e r.val
    | .review => ss.edit.elim Row.blank fun e => s.textRow true e r.val

/-- Where the screen cursor stands (R65, R75, R91). -/
def State.cursorPos (s : State) (ss : Session) : Nat × Nat :=
  match ss.state with
  | .dark => (23, 5 + ss.code.length)
  | .directory =>
    let v := ss.view.getD { basket := none, top := 0, highlight := 0 }
    if (s.viewOf v).isEmpty then (23, 0) else (v.highlight - v.top + 1, 0)
  | .edit | .review =>
    match ss.edit with
    | none => (23, 0)
    | some e =>
      let lines := screenLines (s.text e.key.sid)
      (lineIndex lines e.cursor - lineIndex lines e.top + 1, columnOf lines e.cursor)

/-! ## Bringing a session's screen up to date after an event (R74 to R77) -/

/-- The first position at which two lists differ. -/
def firstDiff {α : Type} [DecidableEq α] : List α → List α → Option Nat
  | [], [] => none
  | x :: xs, y :: ys => if x = y then (firstDiff xs ys).map (· + 1) else some 0
  | _, _ => some 0

/-- The rows from the first entry of the view list that the event changed (R74). -/
def Session.markView (before after : State) (shownBefore : Option Session) (ss : Session) : Session :=
  match ss.state, ss.view with
  | .directory, some v =>
    match v.basket with
    | none => ss
    | some b =>
      if shownBefore.any fun o => o.state == .directory && o.view.any fun w => w.basket == some b then
        match firstDiff (before.viewEntries b) (after.viewEntries b) with
        | some i => ss.markFrom b i
        | none => ss
      else ss
  | _, _ => ss

/-- Row 0 is marked where an event changes what its fields show, be they blinked out or not, or a value of a story that the line
holds or reviews, whatever its session shows (R72, R73). -/
def Session.markStatus (before after : State) (l : LineNo) (shownBefore : Option Session) (ss : Session) : Session :=
  if shownBefore.any (fun o => before.statusFields o != after.statusFields ss) || before.valuesChanged after l ss then
    ss.markRow 0
  else ss

/-- A session's view `v` becomes `w`: rows 1 to 22 are marked where the top changes, and otherwise the rows of the old and
the new highlight where it moves (R75). -/
def Session.showView (v w : View) (ss : Session) : Session :=
  let ss := { ss with view := some w }
  if w.top ≠ v.top then ss.markRows 1 22
  else if w.highlight ≠ v.highlight then
    (ss.markRows (v.highlight + 1 - v.top) (v.highlight + 1 - v.top)).markRows (w.highlight + 1 - w.top)
      (w.highlight + 1 - w.top)
  else ss

/-- A DIRECTORY session's view brought within its list (R75); other sessions' views are kept as they are (R88). -/
def Session.fitView (after : State) (ss : Session) : Session :=
  match ss.state, ss.view with
  | .directory, some v => ss.showView v (v.within (after.viewOf v).length)
  | _, _ => ss

/-- Every row whose cells change is marked dirty, and the image takes its new cells (R71, R76). -/
def Session.redraw (after : State) (ss : Session) : Session :=
  let rows := Vector.ofFn (after.imageRow ss)
  { ss.mark (fun r => decide (rows[r] ≠ ss.image[r])) with image := rows }

/-- A change of the screen cursor's position sets cursor pending (R77). -/
def Session.moveScreenCursor (after : State) (ss : Session) : Session :=
  let at' := after.cursorPos ss
  if at' = ss.cursorAt then ss else { ss with cursorAt := at' }.pendCursor

/-- A session after an event, given the state before it and the state after it. -/
def Session.refresh (before after : State) (l : LineNo) (ss : Session) : Session :=
  let shown := before.session? l
  ((((ss.fitView after).markView before after shown).markStatus before after l shown).redraw after).moveScreenCursor after

/-! ## Sending (R77, R78, R193) -/

/-- An attribute code's second byte (R193). -/
def attrByte (inverse blink : Bool) : Byte := BitVec.ofNat 8 (0x40 + inverse.toNat + 2 * blink.toNat)

/-- The bytes of a row's cells, an attribute code before each change and one for both off at the end (R78). -/
def cellBytes : Bool → Bool → List SCell → List Byte
  | i, b, [] => if i || b then [0x1E, 0x40] else []
  | i, b, c :: cs =>
    (if c.inverse = i ∧ c.blink = b then [c.code] else [0x1E, attrByte c.inverse c.blink, c.code]) ++
      cellBytes c.inverse c.blink cs

/-- The cells of a row up to the last that is not blank (R78). -/
def trimRow (r : Row) : List SCell := (r.reverse.dropWhile fun c => c == SCell.blank).reverse

/-- The cursor-address code (R193). -/
def cursorCode (row col : Nat) : List Byte := [0x1C, BitVec.ofNat 8 (0x20 + row), BitVec.ofNat 8 (0x20 + col)]

/-- The bytes of a row's transmission (R78, R80). -/
def rowBytes (row : Fin 24) (copy : RowCopy) : List Byte :=
  cursorCode row.val 0 ++
    (match copy with
      | .cells r => cellBytes false false (trimRow r)
      | .solid => (List.replicate 80 [(0x1B : Byte), 0x35]).flatten) ++
    [0x1D]

def ModeCode.byte : ModeCode → Byte
  | .normal => 0x30
  | .inverse => 0x31
  | .blank => 0x32

def Session.dirtyRows (ss : Session) : List (Fin 24) := (List.finRange 24).filter fun r => ss.dirty[r]

/-- The last byte of the row in flight has left: the row leaves the dirty set unless its changed flag is set, and the set
becoming empty sets cursor pending (R76, R77, R78). -/
def Session.endRow (f : Flight) (ss : Session) : Session :=
  let ss := { ss with flight := none }
  if f.changed then ss
  else
    let ss := { ss with dirty := ss.dirty.set f.row false }
    if ss.dirtyRows.isEmpty then { ss with cursorPending := true } else ss

/-- A mode or cursor-address code is complete: its pending mark clears unless it was asked for again meanwhile (R77).
DEDUCED (log 54): it is complete when its last byte has left the holding slot, as R78 says of a row. -/
def Session.endCode (c : CodeOut) (ss : Session) : Session :=
  match c.kind with
  | .mode => { ss with codeOut := none, modePending := if c.again then ss.modePending else none }
  | .cursor => { ss with codeOut := none, cursorPending := c.again }

/-- The session's next choice, with its first byte (R77). -/
def Session.choose (ss : Session) : Option Byte × Session :=
  match ss.modePending with
  | some m => (some 0x1B, { ss with codeOut := some { kind := .mode, rest := [m.byte], again := false } })
  | none =>
    if ss.bell then (some 0x07, { ss with bell := false })
    else if ss.mode = .blank then (none, ss)
    else
      match ss.dirtyRows with
      | r :: _ =>
        let copy := if ss.mode = .test then RowCopy.solid else .cells ss.image[r]
        (some 0x1C, { ss with flight := some { row := r, copy := copy, placed := 1, changed := false } })
      | [] =>
        if ss.cursorPending then
          (some 0x1C,
            { ss with codeOut := some { kind := .cursor, rest := (cursorCode ss.cursorAt.1 ss.cursorAt.2).drop 1, again := false } })
        else (none, ss)

/-- What a session does on finding its holding slot empty: the next byte of the code in progress, or the code's end and the
next choice (R77, R78; log 54). -/
def Session.nextByte (ss : Session) : Option Byte × Session :=
  match ss.flight, ss.codeOut with
  | some f, _ =>
    match (rowBytes f.row f.copy)[f.placed]? with
    | some b => (some b, { ss with flight := some { f with placed := f.placed + 1 } })
    | none => (ss.endRow f).choose
  | none, some c =>
    match c.rest with
    | b :: rest => (some b, { ss with codeOut := some { c with rest := rest } })
    | [] => (ss.endCode c).choose
  | none, none => ss.choose

/-- The byte as its frame carries it: with 7 data bits the top bit is not sent (R50). -/
def Settings.sent (x : Settings) (b : Byte) : Byte := if x.dataBits = 7 then b &&& 0x7F else b

/-- A byte placed in an empty holding slot; it moves to an empty shift stage at once (R56). -/
def LineRec.put (b : Byte) (r : LineRec) : LineRec :=
  if r.shift.isNone then { r with shift := some { byte := r.settings.sent b, settings := r.settings } }
  else { r with holding := some b }

/-- While the holding slot is empty, a TERMINAL line's session or an IDLE line's test buffer fills it (R56, R58, R77). Two
bytes fill the shift stage and the slot. -/
def LineRec.fill : Nat → LineRec → LineRec
  | 0, r => r
  | fuel + 1, r =>
    if r.holding.isSome then r
    else
      match r.owner with
      | .terminal ss =>
        match ss.nextByte with
        | (none, ss) => { r with owner := .terminal ss }
        | (some b, ss) => LineRec.fill fuel ({ r with owner := .terminal ss }.put b)
      | .idle =>
        match r.test with
        | [] => r
        | b :: rest => LineRec.fill fuel ({ r with test := rest }.put b)
      | .wire _ | .setter => r

/-- A line after an event: its session's screen brought up to date, and its holding slot filled. -/
def LineRec.settle (before after : State) (l : LineNo) (r : LineRec) : LineRec :=
  { r with owner := r.owner.mapSession (Session.refresh before after l) }.fill 3

end Sys2Proof.Machine
end

