-- ==== Sys2Proof/Machine/Outbound.lean ====
section
/-! DEFINITION. What ends every event: each line's screen is brought up to date and its holding slot filled (R56, R76, R77),
and the outbound stream, if idle, takes its next frame (R180). -/

namespace Sys2Proof.Machine

def Buf.isHeld : Buf → Bool
  | .held .. => true
  | _ => false

/-- An order may be taken: none is being acted on, the reply slot is empty, and a buffer is HELD (R178). -/
def HostChan.orderDue (h : HostChan) : Bool := h.active.isNone && h.reply.isNone && (h.bufA.isHeld || h.bufB.isHeld)

/-- IMAGE_STATE, the first frame the channel sends after a power start (R176, R187). -/
def Notice.isImageState : Notice → Bool
  | .imageState _ => true
  | _ => false

/-- IMAGE_STATE stands at the head of the notice queue. -/
def HostChan.imageStateDue (h : HostChan) : Bool := h.notices.head?.any Notice.isImageState

/-- The notice at the head begins to go out, its overflow flag taken now (R180). -/
def HostChan.sendNotice (h : HostChan) : HostChan :=
  match h.notices with
  | n :: rest => { h with out := some { rest := n.frame h.overflow, reply := false }, notices := rest }
  | [] => h

/-- A reply's frame as it is sent: with the overflow flag raised where it is set as the first byte is placed (R180, R186). DEDUCED
(log 56): R179 gives a reply the flag as it stands when it is made, and step 4 of 10.4.1 sends one made clear with the flag set;
a reply keeps a flag it was made with, and an answer DONE to STATUS goes as it was made (R181). -/
def sentReply (overflow : Bool) (bytes : List Byte) : List Byte :=
  if overflow && !(bytes[3]? == some 0x01 && bytes[5]? == some Res.done.byte) then bytes.set 6 (flagByte true) else bytes

/-- An idle outbound stream takes its next frame while the direction lets it place a byte: IMAGE_STATE before all, else the
reply, else the notice at the head. Where an order may be taken it is taken first, in the event in which it may be, and its
reply then goes before the notices (R176, R178, R180, R187; log 12). -/
def HostChan.pump (h : HostChan) : HostChan :=
  if h.toHost && h.out.isNone then
    if h.imageStateDue then h.sendNotice
    else
      match h.reply with
      | some bytes => { h with out := some { rest := sentReply h.overflow bytes, reply := true } }
      | none => if h.orderDue then h else h.sendNotice
  else h

/-- Every line brought up to date after an event (R56, R71, R76, R77). -/
def State.settle (before after : State) : State :=
  { after with lines := Vector.ofFn fun l => after.lines[l].settle before after l }

/-- The end of an event. The channel sends nothing until the image loader has finished (R176). -/
def State.finish (before after : State) : State :=
  let s := before.settle after
  { s with host := if s.loader.loading then s.host else s.host.pump, freeCount := s.freeCount + 1 }

/-- The outcome of an event that took the state `before` to `after`. -/
def ended (before after : State) : Host.Outcome State Fault Refusal := .next (before.finish after)

/-- The attention pin is raised (R176). -/
def HostChan.attention (h : HostChan) : Bool := h.out.isSome || h.reply.isSome || !h.notices.isEmpty

end Sys2Proof.Machine
end

