-- ==== Sys2Proof/Machine/HostPort.lean ====
section
/-! DEFINITION. The host channel: inbound bytes and buffers (R176 to R178), the taking of orders and their replies (R179), the
outbound stream (R180), and the five commands of the port. -/

namespace Sys2Proof.Machine

/-! ## The inbound buffers (R177, R178) -/

def HostChan.buf (h : HostChan) (isB : Bool) : Buf := if isB then h.bufB else h.bufA

def HostChan.setBuf (isB : Bool) (x : Buf) (h : HostChan) : HostChan :=
  if isB then { h with bufB := x } else { h with bufA := x }

/-- The buffer that is FILLING, with the bytes taken after the lead byte. -/
def HostChan.filling? (h : HostChan) : Option (Bool × List Byte) :=
  match h.bufA, h.bufB with
  | .filling bytes, _ => some (false, bytes)
  | _, .filling bytes => some (true, bytes)
  | _, _ => none

/-- The HELD buffer whose frame completed earlier (R178). -/
def HostChan.earliest (h : HostChan) : Option (Bool × Frame) :=
  match h.bufA, h.bufB with
  | .held f m, .held g n => if m < n then some (false, f) else some (true, g)
  | .held f _, _ => some (false, f)
  | _, .held g _ => some (true, g)
  | _, _ => none

/-- The free buffer a lead byte fills: the one that did not fill last, if it is free (log 11). -/
def HostChan.freeBuf? (h : HostChan) : Option Bool :=
  if h.buf (!h.lastB) = .free then some (!h.lastB) else if h.buf h.lastB = .free then some h.lastB else none

/-- A discard: the buffer is FREE, the bad-frame count rises, and BAD_FRAME is queued (R177). -/
def HostChan.discard (isB gap : Bool) (tag : Option Byte) (h : HostChan) : HostChan :=
  let n := Nat.min 65535 (h.badFrames + 1)
  HostChan.offer (.badFrame gap tag n) { h.setBuf isB .free with gapTimer := false, badFrames := n }

/-- A byte taken into the FILLING buffer: a bad length discards the frame, the last byte completes it (R177). -/
def HostChan.extend (isB : Bool) (bytes : List Byte) (h : HostChan) : HostChan :=
  match bytes with
  | hi :: lo :: rest =>
    let len := ofBE16 hi lo
    if rest.isEmpty && (decide (len < 2) || decide (1026 < len)) then h.discard isB false none
    else if rest.length = len then
      match rest with
      | kind :: tag :: body =>
        { h.setBuf isB (.held { kind := kind, tag := tag, body := body } h.completed) with
          gapTimer := false, completed := h.completed + 1 }
      | _ => h
    else { h.setBuf isB (.filling bytes) with gapTimer := true }
  | _ => { h.setBuf isB (.filling bytes) with gapTimer := true }

/-- A byte taken and acknowledged: into the FILLING buffer, or while hunting for a lead byte (R177). -/
def HostChan.takeByte (b : Byte) (h : HostChan) : HostChan :=
  match h.filling? with
  | some (isB, bytes) => h.extend isB (bytes ++ [b])
  | none =>
    if b = 0xC3 then
      match h.freeBuf? with
      | some isB => { h.setBuf isB (.filling []) with gapTimer := true, lastB := isB }
      | none => h
    else h

/-- The acknowledge for an arriving byte is withheld: the image load runs, or both buffers are HELD (R176, R178). -/
def State.withheld (s : State) : Bool := s.loader.loading || (s.host.bufA.isHeld && s.host.bufB.isHeld)

/-- A byte the host has had waiting on the pins is taken as soon as it may be (R176, R178). -/
def State.takeWaiting (s : State) : State :=
  match s.host.waiting with
  | none => s
  | some b => if s.withheld then s else { s with host := { s.host with waiting := none }.takeByte b }

/-! ## Taking an order (R178, R179) -/

/-- The order that may be taken: no order is being acted on, the reply slot is empty, and its frame completed earlier. -/
def State.nextOrder (s : State) : Option Frame :=
  if s.host.orderDue then s.host.earliest.map Prod.snd else none

/-- What an order's own rule answers: the result, the reply body, and the state after its work. -/
structure Answer where
  res : Res
  body : List Byte
  state : State

/-- An order answered DONE. -/
def doneWith (body : List Byte) (s : State) : Answer := { res := .done, body := body, state := s }

/-- An order refused, with an empty body (R179). -/
def refused (r : Res) (s : State) : Answer := { res := r, body := [], state := s }

/-- The buffer of the order acted on returns to FREE (R178). -/
def HostChan.releaseBuf (h : HostChan) : HostChan :=
  match h.earliest with
  | some (isB, _) => h.setBuf isB .free
  | none => h

/-- The reply is made and placed in the reply slot, and the order's buffer returns to FREE (R179). It is made with the overflow
flag as it stands; a drop before the reply is sent raises the flag it carries (R186, `sentReply`; DEDUCED, log 56). -/
def Answer.reply (f : Frame) (a : Answer) : State :=
  let h := a.state.host
  { a.state with host := { h.releaseBuf with reply := some (replyFrame h.overflow f a.res a.body), active := none } }

/-- The checks of R179 that come before the order's own: tag 0 is refused; the body's length is checked with its fields. -/
def Frame.answer (act : List Byte → State → Answer) (f : Frame) (s : State) : Answer :=
  if f.tag = 0 then refused .badArgument s else act f.body s

/-- The taking of an order of a kind, in one event (R178, R179); `after` is what an order answered DONE does
once its reply is made. -/
def takeOrderThen (kind : Byte) (act : List Byte → State → Answer) (after : State → State) (s : State) :
    Host.Outcome State Fault Refusal :=
  match s.nextOrder with
  | none => .next s
  | some f =>
    if f.kind = kind then
      let a := f.answer act s
      ended s (if a.res = .done then after (a.reply f) else a.reply f).takeWaiting
    else .next s

/-- The taking of an order that does nothing after its reply. -/
def takeOrder (kind : Byte) (act : List Byte → State → Answer) (s : State) : Host.Outcome State Fault Refusal :=
  takeOrderThen kind act id s

/-- The taking of an order whose work spans EEPROM transfers: its buffer stays HELD and no reply is made yet (R178, R179).
`check` gives the work, or none where the order is refused BAD_ARGUMENT. -/
def beginWork (kind : Byte) (check : List Byte → Option Work) (s : State) : Host.Outcome State Fault Refusal :=
  match s.nextOrder with
  | none => .next s
  | some f =>
    if f.kind = kind then
      match if f.tag = 0 then none else check f.body with
      | none => ended s ((refused .badArgument s).reply f).takeWaiting
      | some w => ended s { s with host := { s.host with active := some { frame := f, work := w } } }
    else .next s

/-- The kinds of R190. -/
def orderKinds : List Byte :=
  [0x01, 0x02, 0x03, 0x04, 0x05, 0x06, 0x07, 0x08, 0x09, 0x0A, 0x10, 0x11, 0x12, 0x13, 0x14, 0x15, 0x16, 0x17, 0x18, 0x19,
   0x20, 0x21, 0x22, 0x23, 0x24, 0x30, 0x31, 0x32, 0x33, 0x34, 0x35, 0x40, 0x41, 0x42]

/-! ## The port's commands -/

/-- INBOUND_BYTE (R176, R177, R178): the host places a byte. With the direction to the host, or with a byte still waiting
on the pins, it cannot (log 1). -/
def execInboundByte (b : Byte) (s : State) : Host.Outcome State Fault Refusal :=
  if s.host.toHost || s.host.waiting.isSome then .next s
  else ended s { s with host := { s.host with waiting := some b } }.takeWaiting

/-- GAP_EXPIRY (R177): 2 s have passed with no byte for the FILLING frame. -/
def execGapExpiry (s : State) : Host.Outcome State Fault Refusal :=
  match s.host.filling? with
  | none => .next s
  | some (isB, bytes) => ended s { s with host := s.host.discard isB true bytes[3]? }

/-- OUTBOUND_ACK (R176, R180): the byte on the pins leaves; a reply's last byte empties the reply slot. -/
def execOutboundAck (s : State) : Host.Outcome State Fault Refusal :=
  match s.host.toHost, s.host.out with
  | true, some o =>
    match o.rest.tail with
    | [] => ended s { s with host := { s.host with out := none, reply := if o.reply then none else s.host.reply } }
    | rest => ended s { s with host := { s.host with out := some { o with rest := rest } } }
  | _, _ => .next s

/-- DIRECTION_CHANGE (R176): a frame in progress either way keeps its place. -/
def execDirectionChange (s : State) : Host.Outcome State Fault Refusal :=
  ended s { s with host := { s.host with toHost := !s.host.toHost } }

/-- UNKNOWN_ORDER (R179): a frame whose kind names no order is refused. -/
def execUnknownOrder (s : State) : Host.Outcome State Fault Refusal :=
  match s.nextOrder with
  | none => .next s
  | some f =>
    if orderKinds.contains f.kind then .next s else ended s ((refused .unknownOrder s).reply f).takeWaiting

end Sys2Proof.Machine
end

