-- ==== Sys2Proof/Machine/Fitting.lean ====
section
/-! DEFINITION. The line fitter: one computation of lines from a story's cells, run by the fit unit and by the setting
channels (R127, R128, R132 to R148). Every length is a whole number of fine units. -/

namespace Sys2Proof.Machine

/-! ## The text (R133, R134) -/

/-- The cells with every editor's note left out; the flag says whether the walk stands inside a note (R133). -/
def stripNotes : Bool → List Cell → List Cell
  | _, [] => []
  | _, .noteOn :: cs => stripNotes true cs
  | _, .noteOff :: cs => stripNotes false cs
  | true, _ :: cs => stripNotes true cs
  | false, c :: cs => c :: stripNotes false cs

/-- A cell of the text that is not a context mark, with the values in force at it. -/
structure TextItem where
  cell : Cell
  ctx : Context
deriving DecidableEq, Repr

/-- The text's cells with the values in force at each; a context mark takes effect from the next cell (R134). -/
def annotate : Context → List Cell → List TextItem
  | _, [] => []
  | x, .font f :: cs => annotate { x with font := f } cs
  | x, .size z :: cs => annotate { x with size := z } cs
  | x, .lead v :: cs => annotate { x with lead := v } cs
  | x, .mode m :: cs => annotate { x with mode := m } cs
  | x, c :: cs => { cell := c, ctx := x } :: annotate x cs

/-- The context at the story start, from the copied format (R129). -/
def Format.context (f : Format) : Context := { font := f.font, size := f.size, lead := f.leading, mode := f.mode }

/-- A story's text as the fitter takes it. -/
def fitText (f : Format) (cells : List Cell) : List TextItem := annotate f.context (stripNotes false cells)

/-! ## Widths (R127, R128, R132) -/

/-- The entry of a code in a font's table; 0 for a code outside 0x20 to 0x9F (R126). -/
def widthEntry (w : WidthTables) (font : Nat) (code : Byte) : Nat :=
  if h : font < 16 ∧ 0x20 ≤ code.toNat ∧ code.toNat < 0xA0 then (w[font])[code.toNat - 0x20] else 0

/-- A character as it is set: the code emitted, its width in width units, and whether its glyph is missing (R128). -/
structure Glyph where
  code : Byte
  units : Nat
  missing : Bool
deriving DecidableEq, Repr

/-- The glyph of a code in a font: its own entry, or '?' in place of a missing one (R127, R128). -/
def glyphOf (w : WidthTables) (font : Nat) (code : Byte) : Glyph :=
  if 0 < widthEntry w font code then { code := code, units := widthEntry w font code, missing := false }
  else if 0 < widthEntry w font 0x3F then { code := 0x3F, units := widthEntry w font 0x3F, missing := true }
  else { code := 0x3F, units := 20, missing := true }

def Elem.isGlyph (e : Elem) : Bool :=
  match e.kind with
  | .glyph _ => true
  | _ => false

def Elem.isGap (e : Elem) : Bool := e.kind == .gap

/-- The copies a fitter works from (R130, R131). -/
structure Copies where
  format : Format
  widths : WidthTables
deriving DecidableEq, Repr

/-- The measure in fine units (R132). -/
def Copies.measure (c : Copies) : Nat := c.format.measure * 80

def Copies.glyph (c : Copies) (code : Byte) (ctx : Context) : Elem :=
  let g := glyphOf c.widths ctx.font code
  { kind := .glyph g.code, width := g.units * ctx.size, ctx := ctx, missing := g.missing }

def fixedElem (units : Nat) (ctx : Context) : Elem := { kind := .fixed, width := units * ctx.size, ctx := ctx, missing := false }

/-- The element a cell of a word places, if it places one; a DHYPH that is not a break has no width (R132, R135). -/
def Copies.elem (c : Copies) (i : TextItem) : Option Elem :=
  match i.cell with
  | .char code => some (c.glyph code i.ctx)
  | .en => some (fixedElem 20 i.ctx)
  | .em => some (fixedElem 40 i.ctx)
  | .thin => some (fixedElem 10 i.ctx)
  | .hard => some (fixedElem c.format.optSpace i.ctx)
  | _ => none

/-- The elements of a run of a word's cells. -/
def Copies.elems (c : Copies) (w : List TextItem) : List Elem := w.filterMap c.elem

def widthOf (l : List Elem) : Nat := (l.map Elem.width).sum
def glyphCount (l : List Elem) : Nat := l.countP Elem.isGlyph

/-! ## Words and gaps (R135) -/

def TextItem.isChar (i : TextItem) : Bool :=
  match i.cell with
  | .char _ => true
  | _ => false

def TextItem.endsLine (i : TextItem) : Bool := i.cell.endsLine

/-- A cell that may belong to a gap: a word space, or a DHYPH beside one, which has no effect (R135). -/
def TextItem.inGap (i : TextItem) : Bool := i.cell == .space || i.cell == .dhyph

/-- The gap at the front of the text, given by its first word-space cell, and what follows it. -/
def takeGap (t : List TextItem) : Option TextItem × List TextItem :=
  ((t.takeWhile TextItem.inGap).find? fun i => i.cell == .space, t.dropWhile TextItem.inGap)

def TextItem.inWord (i : TextItem) : Bool := !(i.cell == .space || i.endsLine)

/-- The word at the front of the text, and what follows it. -/
def takeWord (t : List TextItem) : List TextItem × List TextItem := (t.takeWhile TextItem.inWord, t.dropWhile TextItem.inWord)

/-- The discretionary break positions of a word, furthest first: DHYPH cells with a character before and after (R135).
`led` says that the cells are the rest of a word a line has already taken a character of; such a rest keeps its remaining
break positions (R138). -/
def breakPositions (led : Bool) (w : List TextItem) : List Nat :=
  ((List.range w.length).filter fun i =>
    (w[i]?.any fun x => x.cell == .dhyph) && (led || (w.take i).any TextItem.isChar) &&
      (w.drop i).any TextItem.isChar).reverse

/-- The text behind a fitter ends within a word, after a character of it: a first word that follows is that word's rest
(R138; log 34). -/
def leadsOn (behind : List TextItem) : Bool := (behind.reverse.takeWhile TextItem.inWord).any TextItem.isChar

/-- The lengths of the runs from a word's start that end with a character, longest first (R139). -/
def charRuns (w : List TextItem) : List Nat :=
  (((List.range w.length).filter fun i => w[i]?.any TextItem.isChar).map (· + 1)).reverse

/-! ## Building a line (R136 to R140) -/

/-- How a line ended (R136). -/
inductive LineEnd where
  | width
  | cap
  | para
  | line
  | fin
deriving DecidableEq, Repr

/-- A line whose words are fixed: its elements, with gaps not yet given their widths, its indent, how it ended, the flags
of R139 and R140, and the text after it. -/
structure Built where
  elems : List Elem
  indent : Nat
  ending : LineEnd
  overlong : Bool
  lone : Bool
  rest : List TextItem
deriving DecidableEq, Repr

/-- A gap's width as a line is built: its minimum in JUSTIFY, its optimum in the other modes (R137). -/
def Copies.buildGap (c : Copies) (m : Mode) (g : TextItem) : Nat :=
  (if m = .justify then c.format.minSpace else c.format.optSpace) * g.ctx.size

/-- A gap as an element, at its building width. -/
def Copies.gapElem (c : Copies) (m : Mode) (g : TextItem) : Elem :=
  { kind := .gap, width := c.buildGap m g, ctx := g.ctx, missing := false }

/-- The two tests of R137 for a line of the given indent and elements. -/
def Copies.fits (c : Copies) (indent : Nat) (l : List Elem) : Bool :=
  decide (indent + widthOf l ≤ c.measure) && decide (glyphCount l ≤ 200)

/-- The longest discretionary prefix of a word that fits after the elements `before`: the line's elements with the prefix
and its hyphen, and the word's rest (R138). -/
def Copies.hyphenate (c : Copies) (indent : Nat) (before : List Elem) (led : Bool) (w : List TextItem) :
    Option (List Elem × List TextItem) :=
  (breakPositions led w).findSome? fun i =>
    match w[i]? with
    | none => none
    | some d =>
      let l := before ++ c.elems (w.take i) ++ [c.glyph 0x2D d.ctx]
      if c.fits indent l then some (l, w.drop (i + 1)) else none

/-- The longest run of a line's first word that ends with a character and fits (R139). -/
def Copies.splitRun (c : Copies) (indent : Nat) (w : List TextItem) : Option Nat :=
  (charRuns w).find? fun n => c.fits indent (c.elems (w.take n))

/-- A line of some leading cells of its first word, overlong and with no indent. -/
def Copies.leadingCells (c : Copies) (n : Nat) (w rest : List TextItem) : Built :=
  { elems := c.elems (w.take n), indent := 0, ending := .width, overlong := true, lone := false, rest := w.drop n ++ rest }

/-- How many leading cells of a word fit a line with no indent. -/
def Copies.roomFor (c : Copies) (w : List TextItem) : Nat :=
  (List.range w.length).countP fun n => c.fits 0 (c.elems (w.take (n + 1)))

/-- A line whose first word fits neither whole, nor by a prefix, nor by a split, with the indent or without it. A first
character wider than the measure is set alone, and the fixed spaces before it are set on no line (R140; log 24). Otherwise
the word starts with fixed spaces, of which the manual states nothing: the line takes one of the numbers of cells that fit,
a free value; DESIGN CHOICE (log 24): it has no indent and is overlong. -/
def Copies.overfull (c : Copies) (w rest : List TextItem) : Built :=
  match w.dropWhile fun x => !x.isChar with
  | x :: xs =>
    if c.measure < widthOf (c.elems [x]) then
      { elems := c.elems [x], indent := 0, ending := .width, overlong := true, lone := true, rest := xs ++ rest }
    else c.leadingCells (1 + Config.freeSplit c.format.measure w.length % Nat.max 1 (c.roomFor w)) w rest
  | [] => c.leadingCells (1 + Config.freeSplit c.format.measure w.length % Nat.max 1 (c.roomFor w)) w rest

/-- The line ends before or within a word that does not fit (R138, R139); none when not even a split fits. -/
def Copies.breakAt (c : Copies) (m : Mode) (indent : Nat) (line : List Elem) (gap : Option TextItem) (led : Bool)
    (w rest : List TextItem) : Option Built :=
  let before := if line.isEmpty then [] else line ++ (gap.map (c.gapElem m)).toList
  let ending := if decide (indent + widthOf (before ++ c.elems w) ≤ c.measure) then LineEnd.cap else .width
  match c.hyphenate indent before led w with
  | some (l, tail) =>
    some { elems := l, indent := indent, ending := ending, overlong := false, lone := false, rest := tail ++ rest }
  | none =>
    if line.isEmpty then
      (c.splitRun indent w).map fun n =>
        { elems := c.elems (w.take n), indent := indent, ending := ending, overlong := true, lone := false,
          rest := w.drop n ++ rest }
    else some { elems := line, indent := indent, ending := ending, overlong := false, lone := false, rest := w ++ rest }

/-- Words are added to a line in text order until it ends (R137); none when the first word cannot be placed at all under
this indent. `led` says that the line's first word is the rest of a word (R138). -/
def Copies.build (c : Copies) (m : Mode) (indent : Nat) (led : Bool) : Nat → List Elem → List TextItem → Option Built
  | 0, line, t => some { elems := line, indent := indent, ending := .fin, overlong := false, lone := false, rest := t }
  | fuel + 1, line, t =>
    let g := takeGap t
    match g.2 with
    | [] => some { elems := line, indent := indent, ending := .fin, overlong := false, lone := false, rest := [] }
    | x :: xs =>
      if x.endsLine then
        some { elems := line, indent := indent, ending := if x.cell = .para then .para else .line, overlong := false,
               lone := false, rest := xs }
      else
        let w := takeWord (x :: xs)
        let l := if line.isEmpty then c.elems w.1 else line ++ (g.1.map (c.gapElem m)).toList ++ c.elems w.1
        if c.fits indent l then c.build m indent led fuel l w.2
        else c.breakAt m indent line g.1 (led && line.isEmpty) w.1 w.2

/-- A line from what is placed on it so far: built with its indent, else without it, else overfull (R137 to R140). R140 speaks
of a first character; DESIGN CHOICE (log 24): a first word of fixed spaces alone that fits only without the indent is treated
as one is, and the line is not overlong. -/
def Copies.buildLine (c : Copies) (o : OpenLine) (led : Bool) (t : List TextItem) : Built :=
  match c.build o.mode o.indent led (t.length + 1) o.elems t with
  | some b => b
  | none =>
    match c.build o.mode 0 led (t.length + 1) o.elems t with
    | some b => b
    | none =>
      let w := takeWord t
      c.overfull w.1 w.2

/-! ## Setting a line (R141 to R147) -/

/-- A completed line (R146). Its right quad is below 0 on an empty line whose indent exceeds the measure (R136). -/
structure LineRecord where
  mode : Mode
  leading : Nat
  leftQuad : Nat
  indent : Nat
  rightQuad : Int
  elems : List Elem
  loose : Bool
  overlong : Bool
  missing : Nat
  paraFirst : Bool
  empty : Bool
deriving DecidableEq, Repr

def gapsOf (l : List Elem) : List Elem := l.filter Elem.isGap

/-- W of R141: the widths of the elements other than gaps. -/
def solidWidth (l : List Elem) : Nat := widthOf (l.filter fun e => !e.isGap)

/-- Each gap, from the left, is given the width `f` names for its number, counted from 0, and its size. -/
def setGaps (f : Nat → Nat → Nat) : Nat → List Elem → List Elem
  | _, [] => []
  | j, e :: es =>
    if e.isGap then { e with width := f j e.ctx.size } :: setGaps f (j + 1) es else e :: setGaps f j es

/-- The number of letter gaps: neighbouring characters of one word (R135). -/
def letterGaps : List Elem → Nat
  | a :: b :: es => (if a.isGlyph && b.isGlyph then 1 else 0) + letterGaps (b :: es)
  | _ => 0

/-- Each letter gap's letterspace, added after its left character: q to each, and 1 more to the first r (R142). -/
def letterspace (q : Nat) : Nat → List Elem → List Elem
  | r, a :: b :: es =>
    if a.isGlyph && b.isGlyph then
      { a with width := a.width + q + (if 0 < r then 1 else 0) } :: letterspace q (r - 1) (b :: es)
    else a :: letterspace q r (b :: es)
  | _, l => l

/-- X of R142: the total by which gaps exceed their maximum. -/
def excess (f : Format) (l : List Elem) : Nat := ((gapsOf l).map fun e => e.width - f.maxSpace * e.ctx.size).sum

/-- Every element of the line was measured at one size (R142). -/
def oneSize (l : List Elem) : Bool :=
  match l with
  | [] => true
  | e :: es => es.all fun x => x.ctx.size == e.ctx.size

/-- The elements of a justified line and its loose flag (R141, R142). -/
def Copies.justify (c : Copies) (indent : Nat) (l : List Elem) : List Elem × Bool :=
  let f := c.format
  let g := (gapsOf l).length
  let slack := c.measure - (indent + solidWidth l + ((gapsOf l).map fun e => f.minSpace * e.ctx.size).sum)
  let even := setGaps (fun j s => f.minSpace * s + slack / g + (if j < slack % g then 1 else 0)) 0 l
  let x := excess f even
  if x = 0 then (even, false)
  else
    let n := letterGaps l
    let s := (l.head?.elim 0 fun e => e.ctx.size)
    if oneSize l ∧ 0 < f.letterspace ∧ 0 < n ∧ x ≤ n * f.letterspace * s then
      let capped := even.map fun e => if e.isGap then { e with width := Nat.min e.width (f.maxSpace * e.ctx.size) } else e
      (letterspace (x / n) (x % n) capped, false)
    else (even, true)

/-- The line is the last of its paragraph (R136). -/
def LineEnd.isLast : LineEnd → Bool
  | .para | .line | .fin => true
  | .width | .cap => false

/-- Elements, left quad, right quad and loose flag. -/
structure SetLine where
  elems : List Elem
  left : Nat
  right : Nat
  loose : Bool
deriving DecidableEq, Repr

/-- The line's gaps, letterspaces and quads, by its mode (R141 to R145). -/
def Copies.setLine (c : Copies) (m : Mode) (b : Built) : SetLine :=
  let f := c.format
  let atOptimum := setGaps (fun _ s => f.optSpace * s) 0 b.elems
  let natural := b.indent + widthOf atOptimum
  let left := c.measure - natural
  if b.lone then { elems := atOptimum, left := 0, right := 0, loose := false }
  else
    match m with
    | .justify =>
      if (gapsOf b.elems).isEmpty then
        { elems := b.elems, left := 0, right := left, loose := decide (0 < left) && !b.ending.isLast }
      else if b.ending.isLast && decide (natural ≤ c.measure) then
        { elems := atOptimum, left := 0, right := left, loose := false }
      else
        let j := c.justify b.indent b.elems
        { elems := j.1, left := 0, right := 0, loose := j.2 }
    | .left => { elems := atOptimum, left := 0, right := left, loose := false }
    | .right => { elems := atOptimum, left := left, right := 0, loose := false }
    | .center => { elems := atOptimum, left := left / 2, right := left - left / 2, loose := false }

/-- The largest leading in force at the line's elements (R147). -/
def leadingOf (l : List Elem) : Nat := (l.map fun e => e.ctx.lead).foldl Nat.max 0

/-- The indent of a line: the format's on the first line of a paragraph, at the size in force at the line start (R132,
R136). -/
def Copies.indentAt (c : Copies) (paraStart : Bool) (size : Nat) : Nat :=
  if paraStart then c.format.indent * 40 * size else 0

/-- An empty line, ended by a PARA or LINE cell (R147): its indent, then a right quad of the measure less the indent, also where
the indent is the greater (R136). -/
def Copies.emptyLine (c : Copies) (paraStart : Bool) (x : TextItem) : LineRecord :=
  let indent := c.indentAt paraStart x.ctx.size
  { mode := x.ctx.mode, leading := x.ctx.lead, leftQuad := 0, indent := indent,
    rightQuad := (c.measure : Int) - indent, elems := [], loose := false, overlong := false, missing := 0, paraFirst := paraStart, empty := true }

/-- A completed line, the text after it, and whether that begins a paragraph. -/
structure Advance where
  record : LineRecord
  rest : List TextItem
  para : Bool
deriving DecidableEq, Repr

/-- A line in progress carried to its end: its words added, and its gaps, letterspaces and quads set (R136 to R146). -/
def Copies.finishLine (c : Copies) (paraStart : Bool) (o : OpenLine) (led : Bool) (t : List TextItem) : Advance :=
  let b := c.buildLine o led t
  let r := c.setLine o.mode b
  { record :=
      { mode := o.mode, leading := leadingOf r.elems, leftQuad := r.left, indent := b.indent, rightQuad := r.right,
        elems := r.elems, loose := r.loose, overlong := b.overlong, missing := r.elems.countP Elem.missing,
        paraFirst := paraStart, empty := false }
    rest := b.rest
    para := b.ending == .para }

/-- A line as it starts, at its first word's first cell: the mode and the indent are those in force there (R134, R136). -/
def Copies.openLine (c : Copies) (paraStart : Bool) (x : TextItem) : OpenLine :=
  { mode := x.ctx.mode, indent := c.indentAt paraStart x.ctx.size, elems := [] }

/-- The line in progress brought to its end, or with none the next line of the text; none when the text holds no more lines
(R136). `led` says that the text behind ends within a word. -/
def Copies.nextLine (c : Copies) (x : Fitter) (led : Bool) (t : List TextItem) : Option Advance :=
  match x.line, takeGap t with
  | some o, _ => some (c.finishLine x.paraStart o false t)
  | none, (_, []) => none
  | none, (gap, i :: rest) =>
    if i.endsLine then some { record := c.emptyLine x.paraStart i, rest := rest, para := i.cell == .para }
    else some (c.finishLine x.paraStart (c.openLine x.paraStart i) (led && gap.isNone) (i :: rest))

/-- A line's escapement (R146). -/
def LineRecord.escapement (r : LineRecord) : Int := r.leftQuad + r.indent + widthOf r.elems + r.rightQuad

/-! ## The walk of a story (R148) -/

/-- The extra lead before a line: the copy's, before the first line of every paragraph but the story's first line (R148). -/
def Fitter.extraLead (x : Fitter) (f : Format) : Nat := if x.paraStart && !x.first then f.extraLead else 0

/-- The totals raised by a completed line (R148). -/
def Totals.add (t : Totals) (extra : Nat) (r : LineRecord) : Totals :=
  { depth := t.depth + extra + r.leading, lines := t.lines + 1, loose := t.loose + r.loose.toNat,
    overlong := t.overlong + r.overlong.toNat, missing := t.missing + r.missing }

/-- The next line of a story from a fitter's place, and the fitter after it; none at the end of the story. -/
def Copies.advance (c : Copies) (cells : List Cell) (x : Fitter) : Option (LineRecord × Fitter) :=
  let text := fitText c.format cells
  match c.nextLine x (leadsOn (text.take x.place)) (text.drop x.place) with
  | none => none
  | some a =>
    some (a.record, { place := text.length - a.rest.length, line := none, paraStart := a.para, first := false,
                      totals := x.totals.add (x.extraLead c.format) a.record })

/-- The fitter's walk from its place to the story end (R148, R151). -/
def Copies.walk (c : Copies) (cells : List Cell) : Nat → Fitter → Fitter
  | 0, x => x
  | fuel + 1, x =>
    match c.advance cells x with
    | none => x
    | some (_, x) => c.walk cells fuel x

/-- The totals of a whole story. -/
def Copies.fitStory (c : Copies) (cells : List Cell) : Totals := (c.walk cells (cells.length + 1) Fitter.start).totals

end Sys2Proof.Machine
end

