-- ==== Sys2Proof/Machine/Channels.lean ====
section
/-! DEFINITION. Setting channels: acceptance and start of jobs, codes, staging and dwell, pauses, job ends, and resets (R158 to
R175). -/

namespace Sys2Proof.Machine

/-! ## States and notices (R162) -/

/-- The running job of a channel, at the head of its queue (R161). -/
def Channel.job? (c : Channel) : Option Job :=
  match c.queue with
  | j :: _ => if j.running then some j else none
  | [] => none

/-- A change the host hears of: into or out of OFFLINE or PAUSED, or to another reason in OFFLINE (R162). -/
def Channel.notable (c : Channel) (st : ChanState) (reason : Option OfflineReason) : Bool :=
  let quiet (x : ChanState) := x == .idle || x == .running
  if c.state == st then st == .offline && c.reason != reason else !(quiet c.state && quiet st)

/-- SETTER_STATE as the channel stands (R162). -/
def Channel.stateNotice (ch : Chan) (c : Channel) : Notice := .setterState ch c.state c.reason (c.job?.map Job.number)

/-- A channel's state changes; `reason` is the offline reason where the new state is OFFLINE (R162). -/
def State.chanTo (ch : Chan) (st : ChanState) (reason : Option OfflineReason) (s : State) : State :=
  let c := s.chan ch
  let c' := { c with state := st, reason := reason }
  let s := s.setChan ch c'
  if c.notable st reason then s.offer (c'.stateNotice ch) else s

/-! ## Codes (R165, R167, R194) -/

/-- A right quad as two bytes, high byte first (R194); below 0 the bytes are open (log 23). -/
def quadBytes (q : Int) : List Byte := if q < 0 then wordBytes (Config.negativeQuad q) else be16 q.toNat

/-- The bytes of a setter code (R194). -/
def Code.bytes : Code → List Byte
  | .jobStart n => 0x01 :: be16 n
  | .segmentStart x y => 0x02 :: (be16 x ++ be16 y)
  | .lineStart l o => 0x03 :: (be16 l ++ be16 o)
  | .font f => [0x04, byte8 f]
  | .size z => [0x05, byte8 z]
  | .char c e => 0x06 :: c :: be16 e
  | .space e => 0x07 :: be16 e
  | .lineEnd q => 0x08 :: quadBytes q
  | .jobEnd n => 0x09 :: be16 n
  | .cancel => [0x18]

/-- A code's dwell, in ticks (R167). -/
def Code.dwell (p : SetterParams) : Code → Nat
  | .char .. => p.dc
  | .space _ => p.ds
  | .font _ => p.df
  | .size _ => p.dz
  | .segmentStart .. => p.df
  | .lineStart leading _ => (p.dl * leading + 1) / 2
  | .lineEnd _ | .jobStart _ | .jobEnd _ | .cancel => 0

/-- The codes of a line's elements, a FONT or SIZE before an element whose font or size differs from the last sent, with
the font and size last sent after them (R165). -/
def elemCodes : Nat → Nat → List Elem → List Code × Nat × Nat
  | f, z, [] => ([], f, z)
  | f, z, e :: es =>
    let code :=
      match e.kind with
      | .glyph c => Code.char c e.width
      | .fixed | .gap => .space e.width
    let tail := elemCodes e.ctx.font e.ctx.size es
    ((if e.ctx.font = f then [] else [Code.font e.ctx.font]) ++ (if e.ctx.size = z then [] else [Code.size e.ctx.size]) ++
        code :: tail.1, tail.2)

/-- A line's code list, with the font and size last sent after it (R165). -/
def lineCodes (f z : Nat) (r : LineRecord) : List Code × Nat × Nat :=
  let l := elemCodes f z r.elems
  (Code.lineStart r.leading (r.leftQuad + r.indent) :: (l.1 ++ [.lineEnd r.rightQuad]), l.2)

/-! ## Staging (R166, R168) -/

def LineCounts.zero : LineCounts := { loose := 0, overlong := 0, missing := 0 }

def SegRun.start : SegRun :=
  { emittedDepth := 0, oversetLines := 0, oversetDepth := 0, sent := 0, sentCounts := .zero, totals := Fitter.start.totals }

/-- The copies a channel's fitter works from in a segment (R131). -/
def Run.copies (r : Run) (k : Nat) : Option Copies := r.formats[k]?.map fun f => { format := f, widths := r.widths }

/-- The fitter moves past segments whose text holds no more lines, to the next with text left (R166). -/
def Run.skipEnded (texts : List (List Cell)) : Nat → Run → Run
  | 0, r => r
  | fuel + 1, r =>
    match r.copies r.fitSeg, texts[r.fitSeg]? with
    | some c, some t =>
      match c.advance t r.fitter with
      | some _ => r
      | none =>
        let next := r.fitSeg + 1
        let f := r.formats[next]?
        Run.skipEnded texts fuel
          { r with fitSeg := next, fitter := Fitter.start, lastFont := f.elim 0 Format.font, lastSize := f.elim 0 Format.size }
    | _, _ => r

/-- A line is being staged: the buffer is empty and the fitter has text left in the job (R166). -/
def Channel.staging (c : Channel) : Bool :=
  c.staged.isNone && c.run.any fun r => decide (r.fitSeg < r.formats.length)

/-- A line fits a segment of allotted depth A, 0 being unlimited; once a line has not fitted none does (R168). -/
def SegRun.lineFits (g : SegRun) (allotted extra leading : Nat) : Bool :=
  g.oversetLines == 0 && (allotted == 0 || decide (g.emittedDepth + extra + leading ≤ allotted))

/-- The fitter completes a line record: an emitted line enters the staged line buffer, an overset one is only counted
(R166, R168). -/
def Channel.stage (texts : List (List Cell)) (c : Channel) : Channel :=
  match c.job?, c.run with
  | some job, some r =>
    match r.copies r.fitSeg, texts[r.fitSeg]?, job.segments[r.fitSeg]?, r.segs[r.fitSeg]? with
    | some cp, some t, some seg, some g =>
      match cp.advance t r.fitter with
      | none => c
      | some (ln, x) =>
        let extra := r.fitter.extraLead cp.format
        let fits := g.lineFits seg.depth extra ln.leading
        let g := { g with totals := x.totals }
        if fits then
          let codes := lineCodes r.lastFont r.lastSize ln
          let g := { g with emittedDepth := g.emittedDepth + extra + ln.leading }
          let counts := { loose := ln.loose.toNat, overlong := ln.overlong.toNat, missing := ln.missing }
          let r' := { r with segs := r.segs.set r.fitSeg g, fitter := x, lastFont := codes.2.1, lastSize := codes.2.2 }
          { c with
            staged := some { segment := r.fitSeg, codes := codes.1, counts := counts }
            run := some (r'.skipEnded texts (r.formats.length + 1)) }
        else
          let g := { g with oversetLines := g.oversetLines + 1, oversetDepth := g.oversetDepth + extra + ln.leading }
          let r' := { r with segs := r.segs.set r.fitSeg g, fitter := x }
          { c with run := some (r'.skipEnded texts (r.formats.length + 1)) }
    | _, _, _, _ => c
  | _, _ => c

/-- The texts of a job's stories, in segment order. -/
def State.jobTexts (s : State) (j : Job) : List (List Cell) := j.segments.map fun g => s.text g.key.sid

/-! ## The sequence of codes (R165) -/

/-- The codes that open a segment: SEGMENT START for a page job, then FONT and SIZE (R165). -/
def openCodes (j : Job) (seg : Segment) (f : Format) : List Code :=
  (if j.page then [Code.segmentStart seg.column seg.top] else []) ++ [.font f.font, .size f.size]

/-- The next code of the job, with the channel after it is taken; none while its line is still being staged (R165, R166). -/
def Channel.nextCode (c : Channel) (j : Job) (r : Run) : Option (Code × Channel) :=
  let openNext (k : Nat) : Option (Code × Channel) :=
    match j.segments[k]?, r.formats[k]? with
    | some seg, some f =>
      match openCodes j seg f with
      | code :: rest => some (code, { c with run := some { r with seg := some k, line := 0, codes := rest } })
      | [] => none
    | _, _ => some (.jobEnd j.number, { c with run := some { r with seg := some k, line := 0 } })
  match r.codes with
  | code :: rest => some (code, { c with run := some { r with codes := rest } })
  | [] =>
    match r.seg with
    | none => openNext 0
    | some k =>
      match c.staged with
      | some st =>
        if st.segment = k then
          match st.codes with
          | code :: rest =>
            some (code, { c with staged := none, run := some { r with line := r.line + 1, codes := rest, counts := st.counts } })
          | [] => none
        else openNext (k + 1)
      | none => if k < r.fitSeg then openNext (k + 1) else none

def Channel.setPhase (p : Phase) (c : Channel) : Channel := { c with run := c.run.map fun r => { r with phase := p } }

/-! ## Start and end of a job (R164, R173, R174) -/

/-- A story of a starting job becomes SETTING and its reviewers are dropped (R164). -/
def State.startStory (ch : Chan) (n : Nat) (g : Segment) (s : State) : State :=
  (s.modStory g.key.sid fun st => { st with place := .setting ch n }).dropReviewers g.key.sid (ascii "IN SET")

/-- The format copied for a segment, with a nonzero measure override in place of its measure (R131). -/
def State.copyFormat (s : State) (g : Segment) : Format :=
  let f := s.formats[(s.story? g.key.sid).elim 0 Story.format]
  if g.measure = 0 then f else { f with measure := g.measure }

/-- What a channel holds as its job starts: the copies, the fitter at the first text, JOB START to be placed (R164). -/
def State.freshRun (s : State) (ch : Chan) (j : Job) : Run :=
  let formats := j.segments.map s.copyFormat
  let first := formats.head?
  Run.skipEnded (s.jobTexts j) (formats.length + 1)
    { formats := formats, widths := s.widths, params := (s.chan ch).params, segs := j.segments.map fun _ => SegRun.start,
      fitSeg := 0, fitter := Fitter.start, lastFont := first.elim 0 Format.font, lastSize := first.elim 0 Format.size,
      seg := none, line := 0, codes := [], counts := .zero,
      phase := .placing (.jobStart j.number) (Code.jobStart j.number).bytes }

/-- An IDLE channel starts the job at its queue's head (R164). -/
def State.startJob (ch : Chan) (s : State) : State :=
  let c := s.chan ch
  match c.state, c.queue with
  | .idle, j :: rest =>
    let run := s.freshRun ch j
    let s := j.segments.foldl (fun s g => s.startStory ch j.number g) s
    s.modChan ch fun c =>
      { c with state := .running, reason := none, queue := { j with running := true } :: rest, staged := none,
               cancelPending := false, stallTimer := none, run := some run }
  | _, _ => s

/-- The record of a story whose job ended DONE (R22, R173). -/
def Story.wasSet (g : SegRun) (st : Story) : Story :=
  { st with
    depth := some { halfPoints := g.totals.depth, lines := g.totals.lines, stale := false, loose := g.totals.loose,
                    overlong := g.totals.overlong, missing := g.totals.missing }
    setCount := Nat.min 255 (st.setCount + 1)
    overset := decide (0 < g.oversetLines) }

/-- A story of a job that ended DONE: its record, then its place (R173). -/
def State.storyDone (j : Job) (x : Segment × SegRun) (s : State) : State :=
  let sid := x.1.key.sid
  let s := s.modStory sid (Story.wasSet x.2)
  match s.story? sid with
  | none => s
  | some st =>
    let target := j.after.getD st.home
    (s.modStory sid (Story.sendTo st.home target j.queuer)).enterBasket target sid none

/-- A story of a job that ended ABORTED or FAILED, or was withdrawn, becomes OPEN in its home basket (R172, R174). -/
def State.storyHome (sid : Sid) (s : State) : State :=
  match s.story? sid with
  | none => s
  | some st => s.enterBasket st.home sid none

/-- The running job ends: its stories return, SET_DONE is queued, and the channel holds no job, no staged line, no dwell and
no stall timer (R173, R174). The channel's state is left to the caller. -/
def State.endJob (ch : Chan) (e : JobEnd) (s : State) : State :=
  match (s.chan ch).job?, (s.chan ch).run with
  | some j, some r =>
    let s :=
      if e = .done then (j.segments.zip r.segs).foldl (fun s x => s.storyDone j x) s
      else j.segments.foldl (fun s g => s.storyHome g.key.sid) s
    (s.offer (.setDone ch j e r.segs)).modChan ch fun c =>
      { c with queue := c.queue.drop 1, staged := none, cancelPending := false, stallTimer := none, run := none }
  | _, _ => s

/-- After a DONE or ABORTED end: IDLE with the next head started when the flow is READY, else OFFLINE (R173, R174). -/
def State.afterEnd (ch : Chan) (s : State) : State :=
  if (s.chan ch).flow then (s.chanTo ch .idle none).startJob ch else s.chanTo ch .offline (some .notReady)

/-! ## Placing and pacing (R166, R167, R169) -/

/-- Bytes placed while the holding slot is empty; those that found no place are left (R56, R167). -/
def placeBytes : List Byte → LineRec → List Byte × LineRec
  | [], r => ([], r)
  | b :: bs, r => if r.holding.isSome then (b :: bs, r) else placeBytes bs (r.put b)

/-- The counts of a line whose LINE END has been sent (R174). -/
def Run.lineSent (r : Run) : Run :=
  match r.seg with
  | none => r
  | some k =>
    match r.segs[k]? with
    | none => r
    | some g =>
      let a := g.sentCounts
      let g := { g with
        sent := g.sent + 1
        sentCounts := { loose := a.loose + r.counts.loose, overlong := a.overlong + r.counts.overlong,
                        missing := a.missing + r.counts.missing } }
      { r with segs := r.segs.set k g }

def Code.isLineEnd : Code → Bool
  | .lineEnd _ => true
  | _ => false

def Code.isJobEnd : Code → Bool
  | .jobEnd _ => true
  | _ => false

/-- What a dwell expiry does after a code, besides placing the next (R167): the job ends, or CANCEL takes the next code's
place, or the channel pauses, or the next code is due. -/
def State.expireDwell (ch : Chan) (code : Code) (s : State) : State :=
  let c := s.chan ch
  if code = .cancel then (s.endJob ch .cancelled).afterEnd ch
  else if c.cancelPending then s.modChan ch (Channel.setPhase (.placing .cancel Code.cancel.bytes))
  else if code.isJobEnd then (s.endJob ch .done).afterEnd ch
  else if !c.flow then
    (s.modChan ch fun c => { c.setPhase .due with stallTimer := some c.params.stall }).chanTo ch .paused none
  else s.modChan ch (Channel.setPhase .due)

/-- A code's last byte has left: a LINE END is counted, and the dwell counter is loaded; a dwell of 0 expires at once
(R167). -/
def State.codeLeft (ch : Chan) (code : Code) (s : State) : State :=
  let s := if code.isLineEnd then s.modChan ch fun c => { c with run := c.run.map Run.lineSent } else s
  match (s.chan ch).run with
  | none => s
  | some r =>
    let ticks := code.dwell r.params
    if ticks = 0 then s.expireDwell ch code else s.modChan ch (Channel.setPhase (.dwell code ticks))

/-- The channel goes on until it must wait for an event: it places what it can of a code's bytes, and takes the next code
when one is due (R166, R167). The fuel bounds the codes taken; every code but CANCEL has two bytes or more, so two codes at
most find their place. -/
def State.drive (ch : Chan) : Nat → State → State
  | 0, s => s
  | fuel + 1, s =>
    let c := s.chan ch
    match c.job?, c.run with
    | some j, some r =>
      match r.phase with
      | .dwell .. => s
      | .due =>
        if c.state = .running then
          match c.nextCode j r with
          | none => s
          | some (code, c) => ((s.setChan ch c).modChan ch (Channel.setPhase (.placing code code.bytes))).drive ch fuel
        else s
      | .placing code rest =>
        match s.boundLine ch with
        | none => s
        | some l =>
          let x := placeBytes rest s.lines[l]
          let s := (s.setLine l x.2).modChan ch (Channel.setPhase (.placing code x.1))
          if x.1.isEmpty && x.2.holding.isNone then (s.codeLeft ch code).drive ch fuel else s
    | _, _ => s

/-- The channel goes on as far as it can in one event. -/
def State.goOn (ch : Chan) (s : State) : State := s.drive ch 8

/-! ## Acceptance and withdrawal (R159 to R161, R172) -/

/-- A job placed on a set queue: a rush job behind the running job and the waiting rush jobs, another at the tail (R161). -/
def enqueueJob (j : Job) (q : List Job) : List Job :=
  if j.rush then
    (q.takeWhile fun x => x.running || x.rush) ++ j :: (q.dropWhile fun x => x.running || x.rush)
  else q ++ [j]

/-- The acceptance of a job: its stories become QUEUED, it joins the queue, and an IDLE channel starts it (R158, R161). -/
def State.acceptJob (ch : Chan) (page rush : Bool) (queuer : Mover) (after : Option BasketNo) (segs : List Segment)
    (s : State) : State :=
  let n := (s.chan ch).counter
  let j : Job := { number := n, page := page, rush := rush, queuer := queuer, after := after, segments := segs,
                   running := false }
  let s := segs.foldl
    (fun s g => (s.exitBasket g.key.sid).modStory g.key.sid fun st => { st with place := .queued ch n }) s
  let s := s.modChan ch fun c =>
    { c with counter := if n = 65535 then 1 else n + 1, queue := enqueueJob j c.queue }
  (s.startJob ch).goOn ch

/-- The one segment of a story job (R158). -/
def storySegment (k : Key) : Segment := { key := k, measure := 0, depth := 0, column := 0, top := 0 }

/-! ## Resets and bindings (R48, R175) -/

/-- A line reset of a channel's setter line, or a change of its binding (R175). -/
def State.resetChan (ch : Chan) (reason : OfflineReason) (s : State) : State :=
  let s := (s.endJob ch .lineReset).modChan ch fun c =>
    { c with state := .offline, reason := some reason, flow := false, lastStatus := none, cancelPending := false,
             staged := none, stallTimer := none, run := none }
  s.offer ((s.chan ch).stateNotice ch)

/-- A byte of a code in the holding slot of a channel's line is not sent: a FAULT, and a change of the channel's binding,
cut the code off at the last byte that reached the shift stage (R170, R175; log 32). -/
def State.dropPlaced (line : Option LineNo) (s : State) : State :=
  match line with
  | none => s
  | some l => s.modLine l fun r => { r with holding := none }

/-- What a change of a channel's binding does to it (R48, R162, R175). DEDUCED (log 32): the line the channel loses may have
had no line reset of its own, and its holding slot is emptied as that reset would empty it. -/
def State.rebind (ch : Chan) (old : Option LineNo) (s : State) : State :=
  match old, s.boundLine ch with
  | none, none => s
  | none, some _ => s.resetChan ch .notReady
  | some _, none => (s.dropPlaced old).resetChan ch .noLine
  | some l, some m => if l = m then s else (s.dropPlaced old).resetChan ch .lineReset

end Sys2Proof.Machine
end

