-- ==== Sys2Proof/Machine/Intake.lean ====
section
/-! DEFINITION. Wire intake: headings, bodies, damaged bytes, item ends and supersede, and the intake's five commands (R109 to
R121). -/

namespace Sys2Proof.Machine

/-- An intake as it starts (R110). -/
def Intake.initial : Intake :=
  { state := .seek, heading := [], item := none, sep := .none, errorRun := 0, skipped := 0, afterCr := false, handed := [] }

/-- The intake goes to a state with its heading buffer empty, no item and error run 0; the skipped count is kept (R110,
R111). -/
def Intake.go (st : IntakeState) (ik : Intake) : Intake :=
  { ik with state := st, heading := [], item := none, sep := .none, errorRun := 0 }

/-! ## Item end and supersede (R118, R119) -/

def EndCause.truncates : EndCause → Bool
  | .endByte | .idle | .newStart => false
  | .size | .space | .noise | .brk | .lineReset => true

def Origin.isItem (service : Byte) (item : Nat) : Origin → Bool
  | .wire _ x n => x == service && n == item
  | _ => false

/-- The earlier copies of an item: OPEN in WIRE, in basket order (R119). -/
def State.earlierCopies (service : Byte) (item : Nat) (s : State) : List Sid :=
  (s.stories wireBasket).filter fun sid => (s.story? sid).any fun st => st.place == .opn wireBasket && st.origin.isItem service item

/-- One story superseded: steps 1 to 3 of a kill, and WIRE_SUPERSEDED in place of STORY_KILLED (R119). -/
def State.supersede (new : Key) (service : Byte) (item : Nat) (s : State) (sid : Sid) : State :=
  (s.spikeStory sid).offer (.wireSuperseded (s.keyOf sid) new service item)

/-- The stories an ending item supersedes (R118, R119). -/
def State.copiesToKill (it : Item) (cause : EndCause) (s : State) : List Sid :=
  if cause = .lineReset ∨ it.number = 0 then [] else s.earlierCopies it.service it.number

/-- The end of an item at the directory (R118); the intake's own state is left to the caller. -/
def State.endItem (l : LineNo) (it : Item) (cause : EndCause) (s : State) : State :=
  match s.story? it.key.sid with
  | none => s
  | some st =>
    if st.count = 0 then s.freeStory it.key.sid
    else
      let s := if cause.truncates then s.modStory it.key.sid fun st => { st with truncated := true } else s
      let earlier := s.copiesToKill it cause
      let s := (earlier.foldl (State.supersede it.key it.service it.number) s).enterBasket wireBasket it.key.sid none
      s.offer (.wireItem it.key l it.service it.number st.prio st.count cause cause.truncates earlier.length)

/-- An item in BODY ends, and the intake takes the state given (R118). -/
def State.endBody (l : LineNo) (ik : Intake) (cause : EndCause) (next : IntakeState) (s : State) : State :=
  (match ik.item with
    | some it => s.endItem l it cause
    | none => s).setIntake l (ik.go next)

/-! ## The heading (R112 to R114) -/

/-- A byte added to the heading buffer, if it holds fewer than 40 (R112). -/
def Intake.collect (b : Byte) (ik : Intake) : Intake :=
  if ik.heading.length < 40 then { ik with heading := ik.heading ++ [b] } else ik

/-- What a heading buffer is read as; the service is none when its field is invalid (R113). -/
structure Heading where
  service : Option Byte
  prio : Prio
  item : Nat
  slug : List Byte
deriving DecidableEq, Repr

/-- A wire priority digit: 1 FLASH, 2 URGENT, else ROUTINE (R113). -/
def wirePrio : Option Byte → Prio
  | some 0x31 => .flash
  | some 0x32 => .urgent
  | _ => .routine

/-- A slug character of a heading: upper case, and a hyphen for any character outside the set (R113). -/
def slugByte (b : Byte) : Byte := if isNameChar (toUpper b) then toUpper b else 0x2D

/-- The fields of a heading buffer (R113). -/
def readHeading (h : List Byte) : Heading :=
  let service := (h[0]?.map toUpper).filter isUpper
  let digits := (h.drop 2).take 4
  let item := if digits.length = 4 && digits.all isDigit then digitsValue digits else 0
  let rest := h.drop 7
  let slug :=
    if h[6]? = some 0x20 && !rest.isEmpty then (rest.map slugByte).take 16
    else service.toList ++ [0x2D] ++ fourDigits item
  { service := service, prio := wirePrio h[1]?, item := item, slug := slug }

/-- A service letter is in an accept set (R109). -/
def accepts (set : AcceptSet) (service : Byte) : Bool := isUpper service && set.getLsbD (service.toNat - 0x41)

/-- The end of a heading: the item is skipped, or a record is taken and the intake enters BODY (R114). -/
def State.headingEnd (l : LineNo) (ik : Intake) (s : State) : State :=
  let h := readHeading ik.heading
  match h.service with
  | none => s.setIntake l (ik.go .skip)
  | some service =>
    if accepts s.lines[l].accept service then
      match s.takeRecord with
      | (none, s) =>
        let n := Nat.min 65535 (ik.skipped + 1)
        (s.setIntake l { ik.go .skip with skipped := n }).offer (.wireSkipped l service h.item h.slug n)
      | (some sid, s) =>
        let s := s.createStory sid (Story.new h.slug h.prio (.wire l service h.item) wireBasket .intake 0)
        s.setIntake l { ik.go .body with item := some { key := s.keyOf sid, service := service, number := h.item } }
    else s.setIntake l (ik.go .skip)

/-! ## The body (R115 to R117) -/

/-- The cell a pending separator puts before a character; none before the body's first character (R115). -/
def Sep.cells (first : Bool) : Sep → List Cell
  | .none => []
  | .space | .oneLineEnd => if first then [] else [.space]
  | .twoLineEnds => if first then [] else [.para]

def Cause.endCause : Cause → EndCause
  | .sizeLimit => .size
  | .noSpace => .space

/-- A character written with the separator before it, as one change of class WIRE; a refusal ends the item (R116). The flag
says whether the character was written. -/
def State.writeBody (l : LineNo) (ik : Intake) (code : Byte) (s : State) : Bool × State :=
  match ik.item with
  | none => (false, s)
  | some it =>
    let first := (s.story? it.key.sid).all fun st => st.count == 0
    match s.appendCells .wire it.key.sid (ik.sep.cells first ++ [.char code]) with
    | (none, s) => (true, s.setIntake l { ik with sep := .none })
    | (some cause, s) => (false, s.endBody l ik cause.endCause .skip)

def isBodyChar (b : Byte) : Bool :=
  (decide (0x21 ≤ b.toNat) && decide (b.toNat ≤ 0x7E)) || (decide (0x80 ≤ b.toNat) && decide (b.toNat ≤ 0x9F))

/-- The pending separator after a byte that is not a character (R115). -/
def Sep.after (b : Byte) (sep : Sep) : Sep :=
  if b = 0x20 ∨ b = 0x09 then if sep = .none then .space else sep
  else if b = 0x0A then
    match sep with
    | .none | .space => .oneLineEnd
    | .oneLineEnd | .twoLineEnds => .twoLineEnds
  else sep

/-- The circuit is noise: LINE_FAULT is queued (R117). -/
def State.noise (l : LineNo) (s : State) : State := s.offer (.lineFault l true)

/-- A GOOD character other than the framing bytes (R112, R115). -/
def State.goodChar (l : LineNo) (ik : Intake) (b : Byte) (s : State) : State :=
  let cleared := { ik with errorRun := 0, afterCr := false }
  match ik.state with
  | .seek | .skip | .noisy => s.setIntake l cleared
  | .heading =>
    if b = 0x0D ∨ b = 0x0A then s.headingEnd l { cleared with afterCr := b == 0x0D }
    else if 0x20 ≤ b.toNat ∧ b.toNat ≤ 0x7E then s.setIntake l (cleared.collect b)
    else s.setIntake l cleared
  | .body =>
    if ik.afterCr && b == 0x0A then s.setIntake l cleared
    else if isBodyChar b then (s.writeBody l cleared b).2
    else s.setIntake l { cleared with sep := ik.sep.after b }

/-- A character with an error (R112, R117). -/
def State.damagedChar (l : LineNo) (ik : Intake) (s : State) : State :=
  let run := ik.errorRun + 1
  let raised := { ik with errorRun := run, afterCr := false }
  match ik.state with
  | .seek | .skip | .noisy => s.setIntake l { ik with afterCr := false }
  | .heading => if run < 8 then s.setIntake l (raised.collect 0x7F) else (s.setIntake l (raised.go .noisy)).noise l
  | .body =>
    match s.writeBody l raised 0x7F with
    | (false, s) => s
    | (true, s) => if run < 8 then s else (s.endBody l { raised with sep := .none } .noise .noisy).noise l

/-! ## The intake's commands (R111) -/

/-- A character taken from the slot of a WIRE line, if `p` says it is of the command's kind (R110, R111). -/
def takeWireChar (line : Nat) (p : RxChar → Bool) (act : LineNo → Intake → RxChar → State → State) (s : State) :
    Host.Outcome State Fault Refusal :=
  onLine line s fun l =>
    match s.intake? l, s.lines[l].slot with
    | some ik, some c =>
      if p c then ended s (act l ik c (s.modLine l fun r => { r with slot := none })) else .next s
    | _, _ => .next s

def RxChar.isStart (c : RxChar) : Bool := c.status == .good && c.byte == 0x01
def RxChar.isEnd (c : RxChar) : Bool := c.status == .good && c.byte == 0x04

/-- The start byte, by the intake's state (R111). -/
def State.startByte (l : LineNo) (ik : Intake) (_ : RxChar) (s : State) : State :=
  let ik := { ik with afterCr := false }
  match ik.state with
  | .seek | .heading | .skip => s.setIntake l (ik.go .heading)
  | .body => s.endBody l ik .newStart .heading
  | .noisy => s.setIntake l ik

/-- The end byte, by the intake's state (R111). -/
def State.endByte (l : LineNo) (ik : Intake) (_ : RxChar) (s : State) : State :=
  let ik := { ik with afterCr := false }
  match ik.state with
  | .seek | .skip | .noisy => s.setIntake l ik
  | .heading => s.setIntake l (ik.go .seek)
  | .body => s.endBody l ik .endByte .seek

/-- Any other character, good or damaged (R111). -/
def State.otherChar (l : LineNo) (ik : Intake) (c : RxChar) (s : State) : State :=
  if c.status = .good then s.goodChar l ik c.byte else s.damagedChar l ik

/-- WIRE_START_BYTE (R111). -/
def execWireStartByte (line : Nat) (s : State) : Host.Outcome State Fault Refusal :=
  takeWireChar line RxChar.isStart State.startByte s

/-- WIRE_END_BYTE (R111). -/
def execWireEndByte (line : Nat) (s : State) : Host.Outcome State Fault Refusal :=
  takeWireChar line RxChar.isEnd State.endByte s

/-- INTAKE_CHARACTER (R111): a character that is neither framing byte. -/
def execIntakeCharacter (line : Nat) (s : State) : Host.Outcome State Fault Refusal :=
  takeWireChar line (fun c => !c.isStart && !c.isEnd) State.otherChar s

/-- A break or an idle handed to the intake is acted on (R54, R111). -/
def takeHanded (line : Nat) (kind : Handed) (act : LineNo → Intake → State → State) (s : State) :
    Host.Outcome State Fault Refusal :=
  onLine line s fun l =>
    match s.intake? l with
    | some ik =>
      match ik.handed with
      | h :: rest => if h = kind then ended s (act l { ik with handed := rest } s) else .next s
      | [] => .next s
    | none => .next s

/-- A break, by the intake's state (R111). -/
def State.intakeBreak (l : LineNo) (ik : Intake) (s : State) : State :=
  match ik.state with
  | .seek | .heading | .skip | .noisy => s.setIntake l (ik.go .noisy)
  | .body => s.endBody l ik .brk .noisy

/-- An idle, by the intake's state (R111). -/
def State.intakeIdle (l : LineNo) (ik : Intake) (s : State) : State :=
  match ik.state with
  | .seek | .skip => s.setIntake l ik
  | .heading | .noisy => s.setIntake l (ik.go .seek)
  | .body => s.endBody l ik .idle .seek

/-- INTAKE_BREAK (R111). -/
def execIntakeBreak (line : Nat) (s : State) : Host.Outcome State Fault Refusal := takeHanded line .brk State.intakeBreak s

/-- INTAKE_IDLE (R111). -/
def execIntakeIdle (line : Nat) (s : State) : Host.Outcome State Fault Refusal := takeHanded line .idle State.intakeIdle s

end Sys2Proof.Machine
end

