-- ==== Sys2Proof/Machine/Lines.lean ====
section
/-! DEFINITION. Line resets and role changes (R46 to R48, R59, R60, R62), with what each owner does at a reset (R63, R70, R121,
R175), and sign-off (R68). -/

namespace Sys2Proof.Machine

/-! ## Sessions (R63, R68, R70) -/

/-- A session as it is created, and after a line reset or RESTART (R63). Its image is drawn at the end of the event. DESIGN
CHOICE (log 49): its blink phase is ON. -/
def Session.fresh (blankTime : Nat) : Session :=
  Session.startBlank blankTime
    { state := .dark, profile := none, code := [], mode := .normal, modePending := some .normal, bell := false,
      image := Vector.replicate 24 Row.blank, dirty := Vector.replicate 24 true, flight := none, codeOut := none,
      cursorPending := false, cursorAt := (23, 5), fifo := [], discardNext := false, blankTimer := none, alert := none,
      blinkOn := true, blinkTimer := none, message := none, view := none, edit := none }

/-- A held story returns OPEN to its home basket (R68, R70). The line is its mover, so its own session takes no alert. -/
def State.returnHeld (l : LineNo) (s : State) : State :=
  match s.heldBy l with
  | none => s
  | some sid => s.enterBasket ((s.story? sid).elim wireBasket Story.home) sid (some l)

/-- A reviewing session's line leaves the story's reviewer list (R16, R68, R70). -/
def State.endReview (l : LineNo) (ss : Session) (s : State) : State :=
  match ss.state, ss.edit with
  | .review, some e => s.unreview l e.key.sid
  | _, _ => s

/-- TERMINAL_SIGN OFF (R68 to R70). -/
def State.signedOff (l : LineNo) (cause : SignCause) (s : State) : State := s.offer (.terminalSign l none cause)

/-- The fields of a session that signs off (R68, R80). -/
def Session.signOff (ss : Session) : Session :=
  let ss := { ss with
    state := .dark, profile := none, code := [], fifo := [], discardNext := false, alert := none, blinkOn := true,
    blinkTimer := none, message := none, view := none, edit := none }
  (if ss.mode = .test then { ss with mode := .normal }.pendMode .normal else ss).markAll

/-- Sign-off of a signed-on session (R68). -/
def State.signOff (l : LineNo) (ss : Session) (cause : SignCause) (s : State) : State :=
  ((((s.returnHeld l).endReview l ss).modSession l Session.signOff)).signedOff l cause

/-- A line reset ends a session's work (R70). -/
def State.resetSession (l : LineNo) (ss : Session) (s : State) : State :=
  let s := ((s.returnHeld l).endReview l ss).setSession l (Session.fresh s.term.blankTime)
  if ss.signedOn then s.signedOff l .lineReset else s

/-- The baskets of a profile's view set, lowest first (R39). -/
def Profile.viewSet (p : Profile) : List BasketNo := (List.finRange 24).filter p.inView

/-- The basket shown at sign-on (R39). -/
def Profile.openingBasket (p : Profile) : Option BasketNo :=
  (((List.finRange 24).filter (inMask p.take)) ++ p.viewSet).head?

/-- The fields of a session that signs on (R66). -/
def Session.signOn (n : ProfileNo) (basket : Option BasketNo) (blankTime : Nat) (ss : Session) : Session :=
  let ss := ({ ss with
    state := .directory, profile := some n, code := [], view := some { basket := basket, top := 0, highlight := 0 },
    edit := none }.markAll).startBlank blankTime
  if basket.isNone then ss.say (ascii "NO BASKETS") else ss

/-- Sign-on of a DARK session under a profile (R66). -/
def State.signOn (l : LineNo) (n : ProfileNo) (cause : SignCause) (s : State) : State :=
  (s.modSession l (Session.signOn n s.profiles[n].openingBasket s.term.blankTime)).offer (.terminalSign l (some n) cause)

/-! ## Intakes (R121) -/

/-- A line reset ends an intake's work; the skipped count is kept (R121). -/
def State.resetIntake (l : LineNo) (ik : Intake) (s : State) : State :=
  (match ik.item with
    | some it => s.endItem l it .lineReset
    | none => s).setIntake l { Intake.initial with skipped := ik.skipped }

/-! ## Line reset (R59, R60) -/

/-- The multiplexer's part of a line reset; `marking` is the line as it now stands (R59). -/
def LineRec.muxReset (marking : Bool) (r : LineRec) : LineRec :=
  { r with
    rx := .waitMark, slot := none, holding := none, test := [], idleTimer := decide (r.owner.role = .wire) && marking,
    parityErrors := 0, framingErrors := 0, overruns := 0, breaks := 0 }

/-- The owner of a line's role ends its work on the line (R60). -/
def State.resetOwner (l : LineNo) (s : State) : State :=
  match s.lines[l].owner with
  | .idle => s
  | .terminal ss => s.resetSession l ss
  | .wire ik => s.resetIntake l ik
  | .setter =>
    match s.boundChan l with
    | some ch => s.resetChan ch .lineReset
    | none => s

/-- A line reset by LINE RESET or by a role change: the owner first, then the multiplexer (R59, R60). -/
def State.resetLine (l : LineNo) (s : State) : State :=
  let marking := s.markingNow l
  (s.resetOwner l).modLine l (LineRec.muxReset marking)

/-! ## Roles (R45, R46, R48, R62) -/

/-- The initial state of a role's owner (R46, R62). -/
def Owner.initial (blankTime : Nat) : Role → Owner
  | .idle => .idle
  | .terminal => .terminal (Session.fresh blankTime)
  | .wire => .wire Intake.initial
  | .setter => .setter

/-- A line takes a role and its new owner starts; a WIRE line's idle timer starts if the line is marking (R46, R53). -/
def State.startOwner (l : LineNo) (role : Role) (marking : Bool) (s : State) : State :=
  s.modLine l fun r => { r with owner := Owner.initial s.term.blankTime role, idleTimer := decide (role = .wire) && marking }

/-- The most lines a role may have (R45). -/
def Role.limit : Role → Nat
  | .idle => 40
  | .terminal => 32
  | .wire => 4
  | .setter => 2

/-- How many lines other than this one have a role (R46). -/
def State.othersWith (s : State) (l : LineNo) (role : Role) : Nat :=
  (List.finRange 40).countP fun m => decide (m ≠ l) && decide (s.lines[m].owner.role = role)

/-- A role change, in one event (R46, R48). DESIGN CHOICE (log 53): where it changes both channels' lines, channel A is dealt
with before channel B. -/
def State.changeRole (l : LineNo) (role : Role) (s : State) : State :=
  let marking := s.markingNow l
  let a := s.boundLine .a
  let b := s.boundLine .b
  (((s.resetLine l).startOwner l role marking).rebind .a a).rebind .b b

end Sys2Proof.Machine
end

