-- ==== Sys2Proof/Machine/Loads.lean ====
section
/-! DEFINITION. The checks that a load order and the configuration image share (R37, R49, R122, R124, R126, R162). -/

namespace Sys2Proof.Machine

/-- A number within a range. -/
def within (lo hi n : Nat) : Bool := decide (lo ≤ n) && decide (n ≤ hi)

/-- A text that is a name of 1 to 8 characters (R25, R37, R122). -/
def nameOf (t : List Byte) : Option (List Byte) := if validName 8 t then some t else none

/-- The fields of a profile as an order or the image gives them. -/
structure RawProfile where
  code : Option Nat
  name : List Byte
  take : Mask
  send : Mask
  watch : Mask
  permissions : Byte
  basket : Byte
  channel : Option Chan

/-- The profile a load gives, if it passes the checks of R37. -/
def RawProfile.check (r : RawProfile) : Option Profile :=
  match r.code, nameOf r.name, deskOf r.basket, r.channel with
  | some code, some name, some b, some ch =>
    if inMask r.send b then
      some { code := code, name := name, take := r.take, send := r.send, watch := r.watch,
             mayKill := r.permissions.getLsbD 0, maySet := r.permissions.getLsbD 1,
             mayReviewAny := r.permissions.getLsbD 2, defaultBasket := b, defaultChannel := ch }
    else none
  | _, _, _, _ => none

/-- The ranges of R122 and the order of the word spaces (R124). -/
def Format.inRange (f : Format) : Bool :=
  validName 8 f.name && within 72 360 f.measure && within 0 15 f.font && within 12 144 f.size && within 12 288 f.leading &&
    within 2 40 f.minSpace && within 2 40 f.optSpace && within 2 40 f.maxSpace && within 0 4 f.letterspace &&
    within 0 4 f.indent && within 0 48 f.extraLead && decide (f.minSpace ≤ f.optSpace) && decide (f.optSpace ≤ f.maxSpace)

/-- The fields of a format as an order or the image gives them; the mode is none when it is not one of the four. -/
structure RawFormat where
  name : List Byte
  measure : Nat
  font : Nat
  size : Nat
  leading : Nat
  mode : Option Mode
  minSpace : Nat
  optSpace : Nat
  maxSpace : Nat
  letterspace : Nat
  indent : Nat
  extraLead : Nat

/-- The record a load gives, if it passes the checks of R124. -/
def RawFormat.check (r : RawFormat) : Option Format :=
  match r.mode with
  | none => none
  | some m =>
    let f : Format := { name := r.name, measure := r.measure, font := r.font, size := r.size, leading := r.leading, mode := m,
                        minSpace := r.minSpace, optSpace := r.optSpace, maxSpace := r.maxSpace, letterspace := r.letterspace,
                        indent := r.indent, extraLead := r.extraLead }
    if f.inRange then some f else none

/-- Entries put into a width table from a place on; the entry for code 0x20, place 0, stays 0 (R126). -/
def putWidths (place : Nat) : List Nat → Vector Nat 128 → Vector Nat 128
  | [], t => t
  | w :: ws, t => putWidths (place + 1) ws (if place = 0 then t.set! 0 0 else t.set! place w)

/-- The setter parameters are within their ranges (R162). -/
def SetterParams.inRange (p : SetterParams) : Bool :=
  within 0 7 p.k && within 0 255 p.dc && within 0 255 p.ds && within 0 4095 p.df && within 0 255 p.dz && within 0 255 p.dl &&
    within 10 600 p.stall

end Sys2Proof.Machine
end

