-- ==== Sys2Proof/Machine/Image.lean ====
section
/-! DEFINITION. The configuration image: the EEPROM, the check and the application of its sections, power start, RESTART, and the
image orders (R24, R187, R195 to R201). -/

namespace Sys2Proof.Machine

/-! ## The EEPROM (R195) -/

/-- A word of the EEPROM; an unlisted one reads 0xFFFF (log 6). -/
def eepromWord (e : List (Nat × Word)) (a : Nat) : Word := (e.find? fun x => x.1 == a).elim 0xFFFF Prod.snd

/-- Writes a word, keeping the numbers rising and no word that reads 0xFFFF listed. -/
def putWord (a : Nat) (w : Word) : List (Nat × Word) → List (Nat × Word)
  | [] => if w = 0xFFFF then [] else [(a, w)]
  | x :: rest =>
    if x.1 < a then x :: putWord a w rest
    else if x.1 = a then if w = 0xFFFF then rest else (a, w) :: rest
    else if w = 0xFFFF then x :: rest else (a, w) :: x :: rest

/-- Words written from a first word on, in ascending order (R201). -/
def putWords : Nat → List Word → List (Nat × Word) → List (Nat × Word)
  | _, [], e => e
  | a, w :: ws, e => putWords (a + 1) ws (putWord a w e)

/-- The EEPROM is in its one form: word numbers rising and below 8,192, and no word listed that reads 0xFFFF. -/
def eepromWf (e : List (Nat × Word)) : Bool :=
  decide ((e.map Prod.fst).Pairwise (· < ·)) && e.all fun x => decide (x.1 < 8192) && x.2 != 0xFFFF

/-- Words read from a first word on, in ascending order (R200). -/
def readWords (e : List (Nat × Word)) (first count : Nat) : List Word := (List.range count).map fun i => eepromWord e (first + i)

/-! ## The check (R196) -/

/-- The word address of a present section, 1 to 10 (R195). -/
def sectionAt (e : List (Nat × Word)) (n : Nat) : Option Nat :=
  let p := eepromWord e (n + 1)
  if p = 0 ∨ p = 0xFFFF then none else some p.toNat

def presentSections (e : List (Nat × Word)) : List Nat := (List.range 10).filterMap fun i => sectionAt e (i + 1)

/-- A section's count of words after its length word. -/
def sectionLength (e : List (Nat × Word)) (p : Nat) : Nat := (eepromWord e p).toNat

/-- A section's extent passes check 3 (R196). -/
def extentOk (e : List (Nat × Word)) (imageLength p : Nat) : Bool :=
  decide (16 ≤ p) && decide (p + sectionLength e p < imageLength) && decide (p + sectionLength e p ≤ 8191)

/-- The words the sum takes: the header, and every present section with its length word (R196). -/
def summedWords (e : List (Nat × Word)) : List Word :=
  readWords e 0 16 ++ (presentSections e).flatMap fun p => readWords e p (sectionLength e p + 1)

/-- The check of a load (R196). -/
def checkImage (e : List (Nat × Word)) : ImageResult :=
  let imageLength := (eepromWord e 1).toNat
  if (eepromWord e 0).toNat / 4096 ≠ 0xA then .signature
  else if imageLength < 16 ∨ 8192 < imageLength then .range
  else if !(presentSections e).all (extentOk e imageLength) then .range
  else if (summedWords e).foldl (· + ·) 0 ≠ 0x5C3A then .sum
  else .valid

/-! ## Entries (R195, R197) -/

/-- The whole entries of a list of words; words left over are not read. -/
def entriesOf (size : Nat) : Nat → List Word → List (List Word)
  | 0, _ => []
  | fuel + 1, ws => if ws.length < size then [] else ws.take size :: entriesOf size fuel (ws.drop size)

/-- The entries of a section; none when it is absent. -/
def sectionEntries (e : List (Nat × Word)) (n size : Nat) : List (List Word) :=
  match sectionAt e n with
  | none => []
  | some p =>
    let len := sectionLength e p
    entriesOf size len (readWords e (p + 1) len)

def hiByte (w : Word) : Byte := BitVec.ofNat 8 (w.toNat / 256)
def loByte (w : Word) : Byte := BitVec.ofNat 8 w.toNat

/-- The bytes of a run of words. -/
def bytesOfWords (ws : List Word) : List Byte := ws.flatMap wordBytes

/-- A name of up to 8 characters: it runs to the first 0x00 (R197, of section 3). DESIGN CHOICE (log 59): so do the names of
sections 4 and 5, and the bytes after that 0x00 are not read. -/
def imageName (ws : List Word) : List Byte := (bytesOfWords ws).takeWhile fun b => b != 0

/-- A number of two words, the first the high one (log 25). -/
def twoWords (hi lo : Word) : Nat := hi.toNat * 65536 + lo.toNat

/-- The place a word names among `n`. -/
def indexOf (n : Nat) (w : Nat) : Option (Fin n) := if h : w < n then some ⟨w, h⟩ else none

/-- Applies a section's entries in order to what they name. An entry gives the place it names, and the new value from the
value before the section and the present value; an entry that names no place is ignored (R197; log 26). -/
def applyEntries {α : Type} {n : Nat} (parse : List Word → Option (Fin n × (α → α → α))) (entries : List (List Word))
    (v : Vector α n) : Vector α n :=
  entries.foldl
    (fun now e =>
      match parse e with
      | none => now
      | some (i, f) => now.set i (f v[i] now[i]))
    v

/-! ## The sections (R197) -/

/-- Section 1: the role an entry gives a line; a code outside the four is IDLE (R45). -/
def roleOf (b : Byte) : Role := if b = 1 then .terminal else if b = 2 then .wire else if b = 3 then .setter else .idle

def parseRole : List Word → Option (LineNo × (Role → Role → Role))
  | [w] => (lineOf (hiByte w)).map fun l => (l, fun _ _ => roleOf (loByte w))
  | _ => none

/-- The lines that have a role among the first of a list. -/
def rolesBefore (roles : List Role) (r : Role) : Nat := roles.countP (· == r)

/-- Roles set in ascending line number; one that would break a limit is IDLE (R197). -/
def limitRoles : List Role → List Role → List Role
  | _, [] => []
  | done, r :: rest =>
    let r := if rolesBefore done r < r.limit then r else .idle
    r :: limitRoles (done ++ [r]) rest

/-- The role of each line by section 1: IDLE where it names none. -/
def imageRoles (e : List (Nat × Word)) : List Role :=
  limitRoles [] (applyEntries parseRole (sectionEntries e 1 1) (Vector.replicate 40 Role.idle)).toList

/-- The lines take their roles: a line whose role changes starts its new owner (R62, R197). -/
def State.applyRoles (roles : List Role) (marking : LineNo → Bool) (s : State) : State :=
  { s with lines := Vector.ofFn fun l =>
      let r := s.lines[l]
      let role := roles.getD l.val .idle
      if r.owner.role = role then r
      else { r with owner := Owner.initial s.term.blankTime role, idleTimer := decide (role = .wire) && marking l } }

/-- Section 2: a line's settings, each field on its own (R197). The receiver hunts under the new settings (log 27). -/
def settingsOfWords (rate frame : Word) : Settings :=
  let parity := (loByte frame).toNat % 4
  let rateOk := rate.toNat / 4096 % 8 = 0
  { p := if rateOk ∧ 32768 ≤ rate.toNat then 8 else 1
    d := if rateOk then rate.toNat % 4096 else 63
    dataBits := if hiByte frame = 7 then 7 else 8
    parity := if parity = 1 then .even else if parity = 2 then .odd else .none
    stopBits := if (loByte frame).getLsbD 7 then 2 else 1 }

def parseSettings : List Word → Option (LineNo × (LineRec → LineRec → LineRec))
  | [l, rate, frame] =>
    (indexOf 40 l.toNat).map fun l => (l, fun _ r => { r with settings := settingsOfWords rate frame, rx := .waitMark })
  | _ => none

/-- Section 3: a desk basket's name (R25). -/
def parseBasket : List Word → Option (BasketNo × (Basket → Basket → Basket))
  | b :: name =>
    if b.toNat = 0 ∨ 22 < b.toNat then none
    else (indexOf 24 b.toNat).map fun b => (b, fun old x => { x with name := (nameOf (imageName name)).getD old.name })
  | _ => none

/-- Section 4: a profile (R37). -/
def parseProfile : List Word → Option (ProfileNo × (Profile → Profile → Profile))
  | [n, code, n1, n2, n3, n4, t1, t2, s1, s2, w1, w2, pb, ch] =>
    (indexOf 16 n.toNat).map fun n =>
      (n, fun old _ =>
        (RawProfile.check
          { code := if code.toNat ≤ 9999 then some code.toNat else none
            name := imageName [n1, n2, n3, n4]
            take := maskOf (twoWords t1 t2), send := maskOf (twoWords s1 s2), watch := maskOf (twoWords w1 w2)
            permissions := hiByte pb, basket := loByte pb
            channel := if ch = 0 then some .a else if ch = 1 then some .b else none }).getD old)
  | _ => none

/-- Section 5: a format (R123, R124). -/
def parseFormat : List Word → Option (FormatNo × (Format → Format → Format))
  | [n, n1, n2, n3, n4, measure, fontSize, leading, modeSpace, minOpt, maxIndent, extra] =>
    (indexOf 32 n.toNat).map fun n =>
      (n, fun old _ =>
        (RawFormat.check
          { name := imageName [n1, n2, n3, n4], measure := measure.toNat, font := (hiByte fontSize).toNat,
            size := (loByte fontSize).toNat, leading := leading.toNat, mode := modeOf (hiByte modeSpace).toNat,
            minSpace := (hiByte minOpt).toNat, optSpace := (loByte minOpt).toNat, maxSpace := (hiByte maxIndent).toNat,
            letterspace := (loByte modeSpace).toNat, indent := (loByte maxIndent).toNat, extraLead := extra.toNat }).getD old)
  | _ => none

/-- Section 6: a width table; an entry above 63 is 0, and so is the entry for 0x20 (R123, R126). -/
def parseWidths : List Word → Option (Fin 16 × (Vector Nat 128 → Vector Nat 128 → Vector Nat 128))
  | font :: ws =>
    (indexOf 16 font.toNat).map fun f =>
      (f, fun _ t => putWidths 0 ((bytesOfWords ws).map fun b => if b.toNat ≤ 63 then b.toNat else 0) t)
  | _ => none

/-- Section 7: a line's accept set and wire idle time (R109). -/
def parseWire : List Word → Option (LineNo × (LineRec → LineRec → LineRec))
  | [l, hi, lo, idle] =>
    (indexOf 40 l.toNat).map fun l =>
      (l, fun old r =>
        let n := twoWords hi lo
        if n < 2 ^ 26 ∧ within 1 30 idle.toNat then { r with accept := BitVec.ofNat 26 n, idleTime := idle.toNat }
        else { r with accept := old.accept, idleTime := old.idleTime })
  | _ => none

/-- A value within its range, or its default (R197). -/
def orDefault (lo hi default n : Nat) : Nat := if within lo hi n then n else default

/-- Section 8: a channel's setter parameters (R162). -/
def parseParams : List Word → Option (Fin 2 × (SetterParams → SetterParams → SetterParams))
  | [ch, k, dc, ds, df, dz, dl, stall] =>
    (indexOf 2 ch.toNat).map fun ch =>
      (ch, fun _ _ =>
        let d := SetterParams.default
        { k := orDefault 0 7 d.k k.toNat, dc := orDefault 0 255 d.dc dc.toNat, ds := orDefault 0 255 d.ds ds.toNat,
          df := orDefault 0 4095 d.df df.toNat, dz := orDefault 0 255 d.dz dz.toNat, dl := orDefault 0 255 d.dl dl.toNat,
          stall := orDefault 10 600 d.stall stall.toNat })
  | _ => none

/-- Section 9: the terminal times; the first entry alone (R197). -/
def applyTimes (entries : List (List Word)) (t : TermSettings) : TermSettings :=
  match entries with
  | [blank, on, off] :: _ =>
    { t with blankTime := orDefault 0 60 15 blank.toNat, blinkOn := orDefault 1 63 6 on.toNat,
             blinkOff := orDefault 1 63 4 off.toNat }
  | _ => t

/-- Section 10: the banner; the later entry stands, and a bad one leaves the banner as it was before the section (R197). -/
def bannerOf (old : List Byte) : List Word → List Byte
  | count :: ws =>
    if count.toNat ≤ 80 then
      ((bytesOfWords ws).take count.toNat).map fun b => if within 0x20 0x7E b.toNat then b else 0x20
    else old
  | [] => old

def applyBanner (entries : List (List Word)) (t : TermSettings) : TermSettings :=
  match entries.getLast? with
  | none => t
  | some e => { t with banner := bannerOf t.banner e }

/-- Formats and width tables return to their defaults and take sections 5 and 6 (R123). -/
def State.applyFormats (e : List (Nat × Word)) (s : State) : State :=
  { s with formats := applyEntries parseFormat (sectionEntries e 5 12) (Vector.ofFn Format.default)
           widths := applyEntries parseWidths (sectionEntries e 6 65) zeroWidths }

/-- Setter parameters of both channels (R162). -/
def State.setParams (p : Vector SetterParams 2) (s : State) : State :=
  { s with chanA := { s.chanA with params := p[0] }, chanB := { s.chanB with params := p[1] } }

/-- The settings of sections 2 to 4 and 7 to 10 at their power start defaults (R199). -/
def State.defaultSettings (s : State) : State :=
  State.setParams (Vector.replicate 2 .default)
    { s with
      lines := s.lines.map fun r => { r with settings := .default, accept := 0#26, idleTime := 8 }
      baskets := Vector.ofFn fun b => { s.baskets[b] with name := defaultBasketName b }
      profiles := Vector.ofFn Profile.default
      term := .default }

/-- The sections of a VALID image are applied, in order 1 to 10, over settings at their defaults (R197). -/
def State.applyImage (e : List (Nat × Word)) (marking : LineNo → Bool) (s : State) : State :=
  let s := s.applyRoles (imageRoles e) marking
  let s := { s with lines := applyEntries parseSettings (sectionEntries e 2 3) s.lines }
  let s := { s with baskets := applyEntries parseBasket (sectionEntries e 3 5) s.baskets }
  let s := { s with profiles := applyEntries parseProfile (sectionEntries e 4 14) s.profiles }
  let s := s.applyFormats e
  let s := { s with lines := applyEntries parseWire (sectionEntries e 7 4) s.lines }
  let s := s.setParams (applyEntries parseParams (sectionEntries e 8 8) (Vector.replicate 2 SetterParams.default))
  { s with term := applyBanner (sectionEntries e 10 41) (applyTimes (sectionEntries e 9 3) s.term) }

/-! ## Power start (R198, R201) -/

/-- The EEPROM at a power start: an IMAGE WRITE it interrupts has written some of its words (R201; log 7). -/
def State.eepromAtPowerStart (s : State) : List (Nat × Word) :=
  match s.host.active with
  | some { frame := _, work := .imageWrite first words } =>
    putWords first (words.take (Config.freeWordsWritten s.freeCount % (words.length + 1))) s.eeprom
  | _ => s.eeprom

/-- POWER_START (R198): every block takes its power start values and the image read begins. The EEPROM, the commands
waiting and the model's count of free values are what it does not set, nor the pins the host drives: the direction and a
byte it has waiting (R176; log 13). -/
def execPowerStart (s : State) : Host.Outcome State Fault Refusal :=
  let t := State.atPowerStart s.eepromAtPowerStart s.pending (s.freeCount + 1)
  .next { t with host := { t.host with toHost := s.host.toHost, waiting := s.host.waiting } }

/-- The channels once the binding is worked out at power start: OFFLINE (R162, R197). -/
def State.channelsAtPowerStart (s : State) : State :=
  let start (ch : Chan) (c : Channel) : Channel :=
    { c with reason := some (if (s.boundLine ch).isSome then .notReady else .noLine) }
  { s with chanA := start .a s.chanA, chanB := start .b s.chanB }

/-- IMAGE_LOAD_DONE (R198): a VALID image is applied, the image state is set, IMAGE_STATE is queued, and the host channel
begins to take bytes. -/
def execImageLoadDone (s : State) : Host.Outcome State Fault Refusal :=
  if s.loader.loading then
    let result := checkImage s.eeprom
    let a := if result = .valid then s.applyImage s.eeprom s.markingNow else s
    let a := { a.channelsAtPowerStart with loader := { result := result, loading := false } }
    ended s (a.offer (.imageState result)).takeWaiting
  else .next s

/-! ## RESTART (R24, R62, R175, R187, R199) -/

/-- RESTART (R199): the order is taken; a reload flag other than 0 or 1 is refused. -/
def execRestart (s : State) : Host.Outcome State Fault Refusal :=
  beginWork 0x42
    (fun body =>
      match body with
      | [flag] => (parseFlag flag).map .restart
      | _ => none)
    s

/-- The directory's return of one story (R24): it raises no alert and queues no notice. -/
def State.restartStory (s : State) (sid : Sid) : State :=
  let s := s.modStory sid fun st => { st with reviewers := [] }
  let home (b : BasketNo) (s : State) : State := (s.modStory sid fun st => { st with place := .opn b, home := b }).placeIn b sid
  match s.story? sid with
  | none => s
  | some st =>
    match st.place with
    | .held _ | .queued .. | .setting .. => home st.home s
    | .intake =>
      if st.count = 0 then s.freeStory sid
      else home wireBasket (s.modStory sid fun st => { st with truncated := true })
    | .opn _ | .killed => s

def State.restartDirectory (s : State) : State := (List.finRange 512).foldl State.restartStory s

/-- Every line reset, and every owner in its RESTART state under its kept role (R59, R62, R63, R120). -/
def State.restartLines (marking : LineNo → Bool) (s : State) : State :=
  { s with lines := Vector.ofFn fun l =>
      { s.lines[l].muxReset (marking l) with owner := Owner.initial s.term.blankTime s.lines[l].owner.role } }

/-- A channel's RESTART values; its parameters and its job counter are kept (R158, R162, R175). -/
def Channel.restart (bound : Bool) (c : Channel) : Channel :=
  { state := if bound then .idle else .offline, reason := if bound then none else some .noLine, flow := true,
    lastStatus := none, queue := [], cancelPending := false, staged := none, stallTimer := none, params := c.params,
    counter := c.counter, run := none }

def State.restartChannels (s : State) : State :=
  { s with chanA := s.chanA.restart (s.boundLine .a).isSome, chanB := s.chanB.restart (s.boundLine .b).isSome }

/-- The configuration reapplied by a RESTART with the reload flag set, with the outcome of the check (R199). An INVALID image
leaves the formats and width tables as they stood (R123). -/
def State.reload (result : ImageResult) (marking : LineNo → Bool) (s : State) : State :=
  let d := s.defaultSettings
  let d := if result = .valid then d.applyImage s.eeprom marking else d.applyRoles [] marking
  { d with loader := { d.loader with result := result } }

/-- The host channel's part: the queue is emptied, the flag cleared, DONE is placed, RESTARTED is queued (R187). -/
def State.restartHost (f : Frame) (reload : Bool) (result : Option ImageResult) (s : State) : State :=
  let s := { s with host := { s.host with notices := [], overflow := false } }
  ((doneWith [] s).reply f).offer (.restarted reload result)

/-- What the restart event does to every block but the host channel (R199). -/
def State.restartBlocks (reload : Bool) (s : State) : State :=
  let a := (State.restartDirectory { s with fitQueue := [] }).restartLines s.markingNow
  (if reload then a.reload (checkImage s.eeprom) s.markingNow else a).restartChannels

/-- RESTART_EVENT (R199): once any read is complete, the whole restart in one event. -/
def execRestartEvent (s : State) : Host.Outcome State Fault Refusal :=
  match s.host.active with
  | some { frame := f, work := .restart reload } =>
    let result := if reload then some (checkImage s.eeprom) else none
    ended s ((s.restartBlocks reload).restartHost f reload result).takeWaiting
  | _ => .next s

/-! ## IMAGE READ and IMAGE WRITE (R200, R201) -/

/-- The bounds that both orders check. -/
def imageRangeOk (first count : Nat) : Bool := within 1 256 count && decide (first + count ≤ 8192)

/-- IMAGE_READ (R200): the order is taken and the reading begins. -/
def execImageRead (s : State) : Host.Outcome State Fault Refusal :=
  beginWork 0x40
    (fun body =>
      match body with
      | [f1, f2, c1, c2] =>
        let first := ofBE16 f1 f2
        let count := ofBE16 c1 c2
        if imageRangeOk first count then some (.imageRead first count) else none
      | _ => none)
    s

/-- IMAGE_READ_DONE (R200): the order is answered with the words. -/
def execImageReadDone (s : State) : Host.Outcome State Fault Refusal :=
  match s.host.active with
  | some { frame := f, work := .imageRead first count } =>
    ended s ((doneWith (bytesOfWords (readWords s.eeprom first count)) s).reply f).takeWaiting
  | _ => .next s

/-- The words a body holds, two bytes each; none for an odd byte left over. -/
def wordsOfBytes : List Byte → Option (List Word)
  | [] => some []
  | hi :: lo :: rest => (wordsOfBytes rest).map (BitVec.ofNat 16 (ofBE16 hi lo) :: ·)
  | [_] => none

/-- IMAGE_WRITE (R201): the order is taken and the writing begins. -/
def execImageWrite (s : State) : Host.Outcome State Fault Refusal :=
  beginWork 0x41
    (fun body =>
      match body with
      | f1 :: f2 :: c1 :: c2 :: rest =>
        match wordsOfBytes rest with
        | some words =>
          if imageRangeOk (ofBE16 f1 f2) (ofBE16 c1 c2) && words.length == ofBE16 c1 c2 then
            some (.imageWrite (ofBE16 f1 f2) words)
          else none
        | none => none
      | _ => none)
    s

/-- IMAGE_WRITE_DONE (R201): the words stand in the EEPROM, and the order is answered. -/
def execImageWriteDone (s : State) : Host.Outcome State Fault Refusal :=
  match s.host.active with
  | some { frame := f, work := .imageWrite first words } =>
    ended s ((doneWith [] { s with eeprom := putWords first words s.eeprom }).reply f).takeWaiting
  | _ => .next s

end Sys2Proof.Machine
end

