-- ==== Sys2Proof/Machine/Editing.lean ====
section
/-! DEFINITION. What a text change does to the sessions that show the story (R96), and the edit engine's changes of the held
story's text (R93 to R95). -/

namespace Sys2Proof.Machine

/-- A reviewer's offset after a change that removed k cells from offset p and inserted n there (R96). -/
def shiftOffset (p k n x : Nat) : Nat := if x < p then x else if x < p + k then p else x + n - k

/-- A reviewer's window and cursor after a text change; rows 0 and 23 are marked (R96). -/
def Session.reviewChange (sid : Sid) (lines : List ScreenLine) (p k n : Nat) (ss : Session) : Session :=
  match ss.edit with
  | some e =>
    if ss.state = .review && e.key.sid == sid then
      let c := shiftOffset p k n e.cursor
      let t := lineStart lines (shiftOffset p k n e.top)
      { ss with edit := some { e with cursor := c, top := followTop lines t c } }.mark fun r => r == 0 || r == 23
    else ss
  | none => ss

/-- Every reviewer's session after a text change (R96, R183). -/
def State.reviewersFollow (sid : Sid) (p k n : Nat) (s : State) : State :=
  let lines := screenLines (s.text sid)
  s.modSessions fun _ => Session.reviewChange sid lines p k n

/-- The first row of the window to be marked: the row of the first changed screen line, or none when none changed (R96). -/
def firstChangedRow (before after : List ScreenLine) (top : Nat) : Option Nat :=
  (firstDiff (before.map ScreenLine.cells) (after.map ScreenLine.cells)).map fun i =>
    Nat.max 1 (i + 1 - lineIndex before top)

/-- The holder's session after a text change. `oneRow` says that the change was a replacement that keeps the cell's width,
which dirties the one row that holds the cell where it changes no line break; any other marks to row 22 (R96; log 28). -/
def Session.holdChange (before after : List ScreenLine) (oneRow : Bool) (cursor : Nat) (ss : Session) : Session :=
  match ss.edit with
  | none => ss
  | some e =>
    let marked :=
      match firstChangedRow before after e.top with
      | some r =>
        if oneRow && before.map ScreenLine.start == after.map ScreenLine.start then ss.markRows r r else ss.markRows r 22
      | none => ss
    { marked with edit := some { e with cursor := cursor, top := followTop after e.top cursor } }.mark fun r =>
      r == 0 || r == 23

/-- The row of the window that holds an offset is marked on a session that shows the story (R96). -/
def Session.markCell (sid : Sid) (lines : List ScreenLine) (p : Nat) (ss : Session) : Session :=
  match ss.edit with
  | none => ss
  | some e =>
    let top := lineIndex lines e.top
    let row := lineIndex lines p
    if e.key.sid == sid && decide (top ≤ row) && decide (row < top + 22) then ss.markRows (row + 1 - top) (row + 1 - top)
    else ss

/-- The screens after the holder's text change: `before` holds the story's cells as they were. A replacement that keeps the
cell's width and moves no line break marks the row that holds the cell on each session, even where the new cell equals the
old (R96). -/
def State.editShown (l : LineNo) (sid : Sid) (before : List Cell) (oneRow : Bool) (p k n cursor : Nat) (s : State) : State :=
  let old := screenLines before
  let new := screenLines (s.text sid)
  let s := (s.modSession l (Session.holdChange old new oneRow cursor)).reviewersFollow sid p k n
  if oneRow && old.map ScreenLine.start == new.map ScreenLine.start then s.modSessions fun _ => Session.markCell sid new p
  else s

/-- The message of a refused insertion (R95). -/
def Cause.message : Cause → List Byte
  | .sizeLimit => ascii "STORY FULL"
  | .noSpace => ascii "STORE FULL"

/-- A cell inserted at the holder's edit cursor, which moves on by 1; a refusal changes nothing but the message and bell
(R93, R95). -/
def State.insertAtCursor (l : LineNo) (e : Edit) (cell : Cell) (s : State) : State :=
  let sid := e.key.sid
  let before := s.text sid
  match s.insertCell .edit sid e.cursor cell with
  | (some cause, s) => s.modSession l (Session.refuse cause.message)
  | (none, s) => s.editShown l sid before false e.cursor 0 1 (e.cursor + 1)

/-- A cell written over the one at the holder's edit cursor, which moves on by 1 (R93). -/
def State.replaceAtCursor (l : LineNo) (e : Edit) (old cell : Cell) (s : State) : State :=
  let sid := e.key.sid
  let before := s.text sid
  (s.replaceCell sid e.cursor cell).editShown l sid before (old.cols == cell.cols) e.cursor 1 1 (e.cursor + 1)

/-- A text byte as a cell (R93). -/
def textCell (b : Byte) : Cell := if b = 0x20 then .space else .char b

/-- A text byte typed in EDIT with no entry in progress (R93). -/
def State.typeText (l : LineNo) (e : Edit) (b : Byte) (s : State) : State :=
  match e.overstrike, (s.text e.key.sid)[e.cursor]? with
  | true, some old => s.replaceAtCursor l e old (textCell b)
  | _, _ => s.insertAtCursor l e (textCell b)

/-- n cells removed from the holder's edit cursor; with none there, a bell (R94). -/
def State.deleteAtCursor (l : LineNo) (e : Edit) (n : Nat) (s : State) : State :=
  let sid := e.key.sid
  let before := s.text sid
  if before.length ≤ e.cursor then s.modSession l Session.ring
  else (s.deleteCells sid e.cursor n).editShown l sid before false e.cursor n 0 e.cursor

/-- The cells DEL-WORD removes (R94). -/
def wordCount (cells : List Cell) (cursor : Nat) : Nat := wordRight cells cursor - cursor

end Sys2Proof.Machine
end

