-- ==== Sys2Proof/Machine/Keys.lean ====
section
/-! DEFINITION. The keys of a terminal session: the key at the head of the FIFO (R64), code entry (R65), view movement (R75), the
entries of the edit engine (R97, R98, R103, R107), the story action keys (R99 to R107), and one command for each key. -/

namespace Sys2Proof.Machine

/-! ## The key at the head of the FIFO (R64, R89, R193) -/

/-- A key as it is taken. -/
inductive HeadKey where
  | text (b : Byte)
  | code (k : Byte)
  | unknown
deriving DecidableEq, Repr

/-- The text bytes (R89). -/
def isTextByte (b : Byte) : Bool :=
  (decide (0x20 ≤ b.toNat) && decide (b.toNat ≤ 0x7E)) || (decide (0x80 ≤ b.toNat) && decide (b.toNat ≤ 0x9F))

/-- The key codes of R193. -/
def isKeyCode (k : Byte) : Bool := decide (0x41 ≤ k.toNat) && decide (k.toNat ≤ 0x5B)

/-- The key at the head of a FIFO, with the bytes behind it; a lead byte without its code is not taken (R64). -/
def headKey : List Byte → Option (HeadKey × List Byte)
  | [] => none
  | b :: rest =>
    if b = 0x1F then
      match rest with
      | [] => none
      | k :: rest => some (if isKeyCode k then .code k else .unknown, rest)
    else some (if isTextByte b then .text b else .unknown, rest)

/-- The text byte at the head of a FIFO, if a text byte is there. -/
def HeadKey.text? : HeadKey → Option Byte
  | .text b => some b
  | _ => none

def HeadKey.isCode (k : Byte) : HeadKey → Bool
  | .code c => c == k
  | _ => false

/-- A key is taken: its bytes leave the FIFO and any message leaves the message area, and then it acts (R64). The command
is enabled when `p` accepts the key at the head. -/
def takeKey (line : Nat) (p : HeadKey → Bool) (act : LineNo → Session → HeadKey → State → State) (s : State) :
    Host.Outcome State Fault Refusal :=
  onLine line s fun l =>
    match s.session? l with
    | none => .next s
    | some ss =>
      match headKey ss.fifo with
      | none => .next s
      | some (k, rest) =>
        if p k then
          let ss := { ss with fifo := rest, message := none }
          ended s (act l ss k (s.setSession l ss))
        else .next s

/-! ## Small effects -/

def State.ring (l : LineNo) (s : State) : State := s.modSession l Session.ring

def State.refuse (l : LineNo) (t : List Byte) (s : State) : State := s.modSession l (Session.refuse t)

def State.setEdit (l : LineNo) (e : Edit) (s : State) : State := s.modSession l fun ss => { ss with edit := some e }

def State.setEntry (l : LineNo) (e : Edit) (x : Option Entry) (s : State) : State := s.setEdit l { e with entry := x }

/-- "HOLDING <slug>" (R89, R99, R100). -/
def State.holdingText (s : State) (sid : Sid) : List Byte := ascii "HOLDING " ++ (s.story? sid).elim [] Story.slug

/-! ## Code entry (R65) -/

/-- The profile a code selects: the lowest-numbered whose code equals it (R37). -/
def State.profileByCode (s : State) (code : Nat) : Option ProfileNo :=
  (List.finRange 16).find? fun n => s.profiles[n].code == code

/-- A digit typed in DARK; the fourth is checked at once (R65). -/
def State.typeDigit (l : LineNo) (ss : Session) (b : Byte) (s : State) : State :=
  let code := ss.code ++ [b]
  if code.length < 4 then s.modSession l fun ss => { ss with code := code }.markRow 23
  else
    match s.profileByCode (digitsValue code) with
    | some n => s.signOn l n .code
    | none => s.modSession l fun ss => ({ ss with code := [] }.say (ascii "CODE?")).markRow 23

/-- DEL-CHAR in DARK (R65). -/
def Session.dropDigit (ss : Session) : Session :=
  if ss.code.isEmpty then ss.ring else { ss with code := ss.code.dropLast }.markRow 23

/-! ## View movement (R39, R75) -/

/-- The basket a basket key shows (R39; log 29 for a session that shows none). -/
def Profile.nextBasket (forward : Bool) (shown : Option BasketNo) (p : Profile) : Option BasketNo :=
  let set := p.viewSet
  if forward then ((set.find? fun b => shown.any (· < b)).or set.head?)
  else ((set.reverse.find? fun b => shown.any fun x => b < x).or set.getLast?)

/-- NEXT-BASKET and PREV-BASKET in DIRECTORY (R39, R75). -/
def State.turnBasket (l : LineNo) (ss : Session) (forward : Bool) (s : State) : State :=
  match s.profileOf ss, ss.view with
  | some p, some v =>
    match p.nextBasket forward v.basket with
    | none => s
    | some b =>
      s.modSession l fun ss => ({ ss with view := some { basket := some b, top := 0, highlight := 0 } }.markRow 0).markRows 1 22
  | _, _ => s

/-- The highlight moves, and the view top follows it (R75). -/
def State.moveHighlight (l : LineNo) (v : View) (h : Nat) (s : State) : State :=
  s.modSession l (Session.showView v (View.within (s.viewOf v).length { v with highlight := h }))

/-- The movement keys in DIRECTORY (R75). -/
def State.moveView (l : LineNo) (ss : Session) (m : Movement) (s : State) : State :=
  match ss.view with
  | none => s.ring l
  | some v =>
    let n := (s.viewOf v).length
    match m with
    | .up => if v.highlight = 0 then s.ring l else s.moveHighlight l v (v.highlight - 1)
    | .down => if n ≤ v.highlight + 1 then s.ring l else s.moveHighlight l v (v.highlight + 1)
    | .pageFwd => s.moveHighlight l v (Nat.min (v.highlight + 22) (n - 1))
    | .pageBack => s.moveHighlight l v (v.highlight - 22)
    | _ => s.ring l

/-- The highlighted entry of the view list (R75). -/
def State.highlighted (s : State) (ss : Session) : Option Sid := ss.view.bind fun v => (s.viewOf v)[v.highlight]?

/-! ## Leaving EDIT and REVIEW (R88, R101) -/

def State.toDirectory (l : LineNo) (s : State) : State := s.modSession l Session.toDirectory

/-- The review of a story ends (R101). -/
def State.stopReview (l : LineNo) (e : Edit) (s : State) : State := (s.unreview l e.key.sid).toDirectory l

/-! ## Entries (R97, R98, R103, R107) -/

/-- A key as an entry sees it. -/
inductive EntryKey where
  | text (b : Byte)
  | delChar
  | other
deriving DecidableEq, Repr

/-- The most digits a mark's letter takes (R97). -/
def markDigits (letter : Byte) : Nat :=
  if letter = 0x46 then 2 else if letter = 0x5A ∨ letter = 0x56 then 3
  else if letter = 0x4D ∨ letter = 0x58 ∨ letter = 0x4E then 1 else 0

/-- A mark complete with its letter (R97). -/
def letterMark (letter : Byte) : Option Cell :=
  if letter = 0x50 then some .para else if letter = 0x4C then some .line else if letter = 0x48 then some .hard
  else if letter = 0x4B then some .dhyph else none

/-- The mark of a letter and a value; none for a value outside the letter's meanings (R97). -/
def valueMark (letter : Byte) (n : Nat) : Option Cell :=
  if letter = 0x46 then some (.font n)
  else if letter = 0x5A then some (.size n)
  else if letter = 0x56 then some (.lead n)
  else if letter = 0x4D then (modeOf n).map .mode
  else if letter = 0x58 then if n = 1 then some .en else if n = 2 then some .em else if n = 3 then some .thin else none
  else if letter = 0x4E then if n = 1 then some .noteOn else if n = 2 then some .noteOff else none
  else none

/-- F, Z and V may be completed by a word space (R97). -/
def endsAtSpace (letter : Byte) : Bool := letter == 0x46 || letter == 0x5A || letter == 0x56

/-- What a key does to a mark entry. -/
inductive MarkStep where
  | typed (t : List Byte)
  | complete (c : Cell)
  | slug
  | stop
  | bad
deriving DecidableEq, Repr

/-- A key offered to a mark entry with the characters typed so far (R97). -/
def markStep (typed : List Byte) (k : EntryKey) : MarkStep :=
  match k, typed with
  | .other, _ => .bad
  | .delChar, [] => .stop
  | .delChar, t => .typed t.dropLast
  | .text b, [] =>
    let c := toUpper b
    match letterMark c with
    | some m => .complete m
    | none => if c = 0x53 then .slug else if 0 < markDigits c then .typed [c] else .bad
  | .text b, letter :: digits =>
    if isDigit b then
      let ds := digits ++ [b]
      match valueMark letter (digitsValue ds) with
      | none => .bad
      | some m => if ds.length = markDigits letter then .complete m else .typed (letter :: ds)
    else if b = 0x20 ∧ endsAtSpace letter ∧ digits ≠ [] then
      match valueMark letter (digitsValue digits) with
      | some m => .complete m
      | none => .bad
    else .bad

/-- A bad key cancels a mark or slug entry (R97, R98). -/
def State.badMark (l : LineNo) (e : Edit) (s : State) : State := (s.setEntry l e none).refuse l (ascii "BAD MARK")

def State.markEntry (l : LineNo) (e : Edit) (typed : List Byte) (k : EntryKey) (s : State) : State :=
  match markStep typed k with
  | .typed t => s.setEntry l e (some (.mark t))
  | .complete c => (s.setEntry l e none).insertAtCursor l { e with entry := none } c
  | .slug => s.setEntry l e (some (.slug []))
  | .stop => s.setEntry l e none
  | .bad => s.badMark l e

/-- A key offered to a slug entry (R98). -/
def State.slugEntry (l : LineNo) (e : Edit) (typed : List Byte) (k : EntryKey) (s : State) : State :=
  match k with
  | .other => s.badMark l e
  | .delChar => if typed.isEmpty then s.setEntry l e none else s.setEntry l e (some (.slug typed.dropLast))
  | .text b =>
    if b = 0x20 then
      if typed.isEmpty then s.badMark l e
      else
        (((s.modStory e.key.sid fun st => { st with slug := typed }).setEntry l e none).markShown e.key.sid).markListed e.key.sid
    else if isNameChar (toUpper b) && decide (typed.length < 16) then s.setEntry l e (some (.slug (typed ++ [toUpper b])))
    else s.ring l

/-- The held story is sent to a basket (R30, R103). -/
def State.sendHeld (l : LineNo) (e : Edit) (b : BasketNo) (s : State) : State :=
  let sid := e.key.sid
  let home := (s.story? sid).elim wireBasket Story.home
  ((s.modStory sid (Story.sendTo home b (some l))).enterBasket b sid (some l)).toDirectory l

/-- The two digits of a SEND entry are checked (R103). -/
def State.sendTo (l : LineNo) (ss : Session) (e : Edit) (n : Nat) (s : State) : State :=
  match indexBasket n with
  | none => (s.setEntry l e none).refuse l (ascii "NO SUCH BASKET")
  | some b =>
    if (s.profileOf ss).any fun p => inMask p.send b then s.sendHeld l e b
    else (s.setEntry l e none).refuse l (ascii "NOT PERMITTED")
where
  /-- A number as a basket, when it is at most 23. -/
  indexBasket (n : Nat) : Option BasketNo := if h : n < 24 then some ⟨n, h⟩ else none

/-- A key offered to a SEND entry (R103). -/
def State.sendEntry (l : LineNo) (ss : Session) (e : Edit) (typed : List Byte) (k : EntryKey) (s : State) : State :=
  let bad := (s.setEntry l e none).refuse l (ascii "BAD BASKET")
  match k with
  | .other => bad
  | .delChar => if typed.isEmpty then s.setEntry l e none else s.setEntry l e (some (.send typed.dropLast))
  | .text b =>
    if isDigit b then
      if typed.isEmpty then s.setEntry l e (some (.send [b])) else s.sendTo l ss e (digitsValue (typed ++ [b]))
    else bad

/-- The priority digits of a PRIORITY entry (R107). -/
def keyPrio (b : Byte) : Option Prio :=
  if b = 0x31 then some .routine else if b = 0x32 then some .urgent else if b = 0x33 then some .flash else none

/-- A key offered to a PRIORITY entry; the row that lists the story is marked even where its priority stands (R107). -/
def State.priorityEntry (l : LineNo) (e : Edit) (k : EntryKey) (s : State) : State :=
  let bad := (s.setEntry l e none).refuse l (ascii "BAD PRIORITY")
  match k with
  | .text b =>
    match keyPrio b with
    | some p => ((s.modStory e.key.sid fun st => { st with prio := p }).setEntry l e none).markListed e.key.sid
    | none => bad
  | .delChar | .other => bad

/-- A key offered to the entry in progress, which takes it or is cancelled by it (R89, R97). -/
def State.offerEntry (l : LineNo) (ss : Session) (e : Edit) (x : Entry) (k : EntryKey) (s : State) : State :=
  match x with
  | .mark t => s.markEntry l e t k
  | .slug t => s.slugEntry l e t k
  | .send t => s.sendEntry l ss e t k
  | .priority => s.priorityEntry l e k

/-! ## Acting by the session's state (R64, R89) -/

/-- What a key does in each state in which the edit engine or the terminal controller takes it. -/
structure KeyAction where
  /-- In DARK (R65). -/
  dark : LineNo → Session → State → State
  directory : LineNo → Session → State → State
  /-- In EDIT with no entry in progress (R89). -/
  edit : LineNo → Session → Edit → State → State
  review : LineNo → Session → Edit → State → State
  /-- As an entry in progress sees the key. -/
  entry : EntryKey

/-- The key acts by the session's state; in EDIT it is first offered to the entry in progress (R64, R89). -/
def KeyAction.run (a : KeyAction) (l : LineNo) (ss : Session) (s : State) : State :=
  match ss.state, ss.edit with
  | .dark, _ => a.dark l ss s
  | .directory, _ => a.directory l ss s
  | .edit, some e =>
    match e.entry with
    | some x => s.offerEntry l ss e x a.entry
    | none => a.edit l ss e s
  | .review, some e => a.review l ss e s
  | _, none => s

/-- A bell, and nothing else. -/
def bellKey (l : LineNo) (_ : Session) (s : State) : State := s.ring l

def bellEdit (l : LineNo) (_ : Session) (_ : Edit) (s : State) : State := s.ring l

def refuseKey (t : String) (l : LineNo) (_ : Session) (s : State) : State := s.refuse l (ascii t)

def refuseEdit (t : String) (l : LineNo) (_ : Session) (_ : Edit) (s : State) : State := s.refuse l (ascii t)

/-- The key ends the review and does nothing further (R101). -/
def endReviewKey (l : LineNo) (_ : Session) (e : Edit) (s : State) : State := s.stopReview l e

/-- The edit cursor moves (R92). -/
def moveEdit (m : Movement) (l : LineNo) (_ : Session) (e : Edit) (s : State) : State :=
  match moveCursor (s.text e.key.sid) m e.cursor e.top with
  | none => s.ring l
  | some (c, t) => s.modSession l fun ss => { ss with edit := some { e with cursor := c, top := t } }.pendCursor

/-- A movement key: a bell in DIRECTORY (R89). -/
def cursorKey (m : Movement) : KeyAction :=
  { dark := bellKey, directory := bellKey, edit := moveEdit m, review := moveEdit m, entry := .other }

/-- A movement key that moves the highlight in DIRECTORY (R64, R75). -/
def viewKey (m : Movement) : KeyAction :=
  { dark := bellKey, directory := fun l ss s => s.moveView l ss m, edit := moveEdit m, review := moveEdit m, entry := .other }

/-! ## Story action keys (R99 to R107) -/

/-- The slug of a story created by NEW (R99). -/
def newSlug (l : LineNo) (sid : Sid) : List Byte := lineName l ++ [0x2D] ++ decimal (storyNumber sid)

/-- NEW in DIRECTORY (R99). -/
def newStory (l : LineNo) (ss : Session) (s : State) : State :=
  match s.heldBy l with
  | some sid => s.refuse l (s.holdingText sid)
  | none =>
    match s.takeRecord with
    | (none, s) => s.refuse l (ascii "DIRECTORY FULL")
    | (some sid, s) =>
      let home := (s.profileOf ss).elim wireBasket Profile.defaultBasket
      let s := s.createStory sid (Story.new (newSlug l sid) .routine (.terminal l) home (.held l) 0)
      s.modSession l (Session.toEdit (Edit.enter (s.keyOf sid)))

/-- NEW in EDIT (R89). -/
def newInEdit (l : LineNo) (_ : Session) (e : Edit) (s : State) : State := s.refuse l (s.holdingText e.key.sid)

/-- The checks of a FETCH claim; none when it passes (R42). -/
def State.fetchRefusal (s : State) (ss : Session) (k : Key) : Option (List Byte) :=
  match s.live? k with
  | none => some (ascii "GONE")
  | some st =>
    match st.place with
    | .held h => some (ascii "HELD BY " ++ lineName h)
    | .queued .. | .setting .. => some (ascii "IN SET")
    | .killed => some (ascii "KILLED")
    | .opn b => if (s.profileOf ss).any fun p => inMask p.take b then none else some (ascii "NOT PERMITTED")
    | .intake => some (ascii "NOT PERMITTED")

/-- A FETCH claim that passed: the story leaves its basket and is HELD by the line, which reviews it no longer (R16, R42). -/
def State.claim (l : LineNo) (sid : Sid) (s : State) : State :=
  (s.exitBasket sid).modStory sid fun st => { st with place := .held l, reviewers := st.reviewers.filter (· != l) }

/-- FETCH in DIRECTORY (R100). -/
def fetchHighlighted (l : LineNo) (ss : Session) (s : State) : State :=
  match s.highlighted ss with
  | none => s.ring l
  | some sid =>
    match s.heldBy l with
    | some h =>
      if h = sid then s.modSession l (Session.toEdit (Edit.enter (s.keyOf sid))) else s.refuse l (s.holdingText h)
    | none =>
      match s.fetchRefusal ss (s.keyOf sid) with
      | some t => s.refuse l t
      | none => (s.claim l sid).modSession l (Session.toEdit (Edit.enter (s.keyOf sid)))

/-- FETCH in REVIEW (R100). -/
def fetchReviewed (l : LineNo) (ss : Session) (e : Edit) (s : State) : State :=
  match s.heldBy l with
  | some h => (s.stopReview l e).refuse l (s.holdingText h)
  | none =>
    match s.fetchRefusal ss e.key with
    | some t => (s.stopReview l e).refuse l t
    | none => (s.claim l e.key.sid).modSession l (Session.toEdit { e with overstrike := false, entry := none })

/-- What the REVIEW key finds; none when the line may review the story (R38, R101). -/
def State.reviewRefusal (s : State) (l : LineNo) (ss : Session) (k : Key) : Option (List Byte) :=
  match s.live? k with
  | none => some (ascii "GONE")
  | some st =>
    let full := if decide (4 ≤ st.reviewers.length) && !st.reviewers.contains l then some (ascii "REVIEW FULL") else none
    match st.place with
    | .killed => some (ascii "KILLED")
    | .queued .. | .setting .. => some (ascii "IN SET")
    | .held h => if h = l then some (ascii "HELD HERE") else full
    | .opn b =>
      if (s.profileOf ss).any fun p => inMask p.take b || inMask p.watch b || p.mayReviewAny then full
      else some (ascii "NOT PERMITTED")
    | .intake => some (ascii "NOT PERMITTED")

/-- A line joins a story's reviewers, at the end of the list (R16). -/
def Story.addReviewer (l : LineNo) (st : Story) : Story :=
  if st.reviewers.contains l then st else { st with reviewers := st.reviewers ++ [l] }

/-- REVIEW in DIRECTORY (R101). -/
def reviewHighlighted (l : LineNo) (ss : Session) (s : State) : State :=
  match s.highlighted ss with
  | none => s.ring l
  | some sid =>
    match s.reviewRefusal l ss (s.keyOf sid) with
    | some t => s.refuse l t
    | none => (s.modStory sid (Story.addReviewer l)).modSession l (Session.toReview (Edit.enter (s.keyOf sid)))

/-- RELEASE in EDIT (R102). -/
def releaseHeld (l : LineNo) (_ : Session) (e : Edit) (s : State) : State :=
  (s.enterBasket ((s.story? e.key.sid).elim wireBasket Story.home) e.key.sid (some l)).toDirectory l

/-- KILL in EDIT (R33, R104). -/
def killHeld (l : LineNo) (ss : Session) (e : Edit) (s : State) : State :=
  if (s.profileOf ss).any Profile.mayKill then
    ((s.spikeStory e.key.sid).offer (.storyKilled (s.keyOf e.key.sid))).modSession l fun ss =>
      ss.toDirectory.say (ascii "KILLED")
  else s.refuse l (ascii "NOT PERMITTED")

/-- SET in EDIT (R105, R159, R161). -/
def setHeld (l : LineNo) (ss : Session) (e : Edit) (s : State) : State :=
  match s.profileOf ss with
  | none => s
  | some p =>
    if p.maySet then
      let ch := p.defaultChannel
      if 32 ≤ (s.chan ch).queue.length then s.refuse l (ascii "SET QUEUE FULL")
      else
        (s.modSession l fun ss => ss.toDirectory.say (ascii "QUEUED ON " ++ chanName ch)).acceptJob ch false false (some l)
          (some ((s.story? e.key.sid).elim wireBasket Story.home)) [storySegment (s.keyOf e.key.sid)]
    else s.refuse l (ascii "NOT PERMITTED")

/-- The fit request of a FIT key (R106, R150). -/
def State.askFit (l : LineNo) (sid : Sid) (s : State) : State := (s.requestFit sid).getD (s.refuse l (ascii "FIT BUSY"))

/-- FIT in DIRECTORY (R106). -/
def fitHighlighted (l : LineNo) (ss : Session) (s : State) : State :=
  match s.highlighted ss with
  | none => s.ring l
  | some sid =>
    match s.story? sid with
    | none => s.refuse l (ascii "GONE")
    | some st => if st.place = .killed then s.refuse l (ascii "KILLED") else s.askFit l sid

/-- FIT in EDIT (R106). -/
def fitHeld (l : LineNo) (_ : Session) (e : Edit) (s : State) : State := s.askFit l e.key.sid

/-- An entry begins (R97, R103, R107). -/
def startEntry (x : Entry) (l : LineNo) (_ : Session) (e : Edit) (s : State) : State := s.setEntry l e (some x)

/-- A key of the story actions that need EDIT (R89). -/
def actionKey (edit : LineNo → Session → Edit → State → State) : KeyAction :=
  { dark := bellKey, directory := refuseKey "NOT IN EDIT", edit := edit, review := endReviewKey, entry := .other }

/-- A key that changes text or the text mode (R89). -/
def textActionKey (dark : LineNo → Session → State → State) (entry : EntryKey)
    (edit : LineNo → Session → Edit → State → State) : KeyAction :=
  { dark := dark, directory := bellKey, edit := edit, review := refuseEdit "READ ONLY", entry := entry }

/-- NEXT-BASKET and PREV-BASKET (R75, R89, R101). -/
def basketKey (forward : Bool) : KeyAction :=
  { dark := bellKey, directory := fun l ss s => s.turnBasket l ss forward, edit := fun l _ _ s => s.toDirectory l,
    review := endReviewKey, entry := .other }

/-- A text byte by the session's state (R65, R89, R93). -/
def textAction (b : Byte) : KeyAction :=
  textActionKey (fun l ss s => if isDigit b then s.typeDigit l ss b else s.ring l) (.text b)
    (fun l _ e s => s.typeText l e b)

/-! ## The commands -/

/-- A function key's command: the key of code `k` heads the FIFO of the line's session (R64, R193). -/
def functionKey (k : Byte) (a : KeyAction) (line : Nat) (s : State) : Host.Outcome State Fault Refusal :=
  takeKey line (HeadKey.isCode k) (fun l ss _ s => a.run l ss s) s

/-- TEXT_KEY (R93). -/
def execTextKey (line : Nat) (s : State) : Host.Outcome State Fault Refusal :=
  takeKey line (fun k => k.text?.isSome) (fun l ss k s => k.text?.elim s fun b => (textAction b).run l ss s) s

/-- UNKNOWN_KEY (R64, R89): discarded with a bell, in any state. -/
def execUnknownKey (line : Nat) (s : State) : Host.Outcome State Fault Refusal :=
  takeKey line (fun k => k == .unknown) (fun l _ _ s => s.ring l) s

/-- KEY_LEFT (R92). -/
def execKeyLeft (line : Nat) (s : State) : Host.Outcome State Fault Refusal := functionKey 0x41 (cursorKey .left) line s
/-- KEY_RIGHT (R92). -/
def execKeyRight (line : Nat) (s : State) : Host.Outcome State Fault Refusal := functionKey 0x42 (cursorKey .right) line s
/-- KEY_UP (R75, R92). -/
def execKeyUp (line : Nat) (s : State) : Host.Outcome State Fault Refusal := functionKey 0x43 (viewKey .up) line s
/-- KEY_DOWN (R75, R92). -/
def execKeyDown (line : Nat) (s : State) : Host.Outcome State Fault Refusal := functionKey 0x44 (viewKey .down) line s
/-- KEY_WORD_LEFT (R92). -/
def execKeyWordLeft (line : Nat) (s : State) : Host.Outcome State Fault Refusal := functionKey 0x45 (cursorKey .wordLeft) line s
/-- KEY_WORD_RIGHT (R92). -/
def execKeyWordRight (line : Nat) (s : State) : Host.Outcome State Fault Refusal := functionKey 0x46 (cursorKey .wordRight) line s
/-- KEY_LINE_START (R92). -/
def execKeyLineStart (line : Nat) (s : State) : Host.Outcome State Fault Refusal := functionKey 0x47 (cursorKey .lineStart) line s
/-- KEY_LINE_END (R92). -/
def execKeyLineEnd (line : Nat) (s : State) : Host.Outcome State Fault Refusal := functionKey 0x48 (cursorKey .lineEnd) line s
/-- KEY_PAGE_FWD (R75, R92). -/
def execKeyPageFwd (line : Nat) (s : State) : Host.Outcome State Fault Refusal := functionKey 0x49 (viewKey .pageFwd) line s
/-- KEY_PAGE_BACK (R75, R92). -/
def execKeyPageBack (line : Nat) (s : State) : Host.Outcome State Fault Refusal := functionKey 0x4A (viewKey .pageBack) line s

/-- KEY_DEL_CHAR (R65, R94, R97). -/
def execKeyDelChar (line : Nat) (s : State) : Host.Outcome State Fault Refusal :=
  functionKey 0x4B
    (textActionKey (fun l _ s => s.modSession l Session.dropDigit) .delChar (fun l _ e s => s.deleteAtCursor l e 1)) line s

/-- KEY_DEL_WORD (R94). -/
def execKeyDelWord (line : Nat) (s : State) : Host.Outcome State Fault Refusal :=
  functionKey 0x4C
    (textActionKey bellKey .other fun l _ e s => s.deleteAtCursor l e (wordCount (s.text e.key.sid) e.cursor)) line s

/-- KEY_INSERT_TOGGLE (R93). -/
def execKeyInsertToggle (line : Nat) (s : State) : Host.Outcome State Fault Refusal :=
  functionKey 0x4D (textActionKey bellKey .other fun l _ e s => s.setEdit l { e with overstrike := !e.overstrike }) line s

/-- KEY_MARK (R97). -/
def execKeyMark (line : Nat) (s : State) : Host.Outcome State Fault Refusal :=
  functionKey 0x4E (textActionKey bellKey .other (startEntry (.mark []))) line s

/-- KEY_NEW (R99). -/
def execKeyNew (line : Nat) (s : State) : Host.Outcome State Fault Refusal :=
  functionKey 0x4F
    { dark := bellKey, directory := newStory, edit := newInEdit, review := endReviewKey, entry := .other } line s

/-- KEY_FETCH (R100). -/
def execKeyFetch (line : Nat) (s : State) : Host.Outcome State Fault Refusal :=
  functionKey 0x50
    { dark := bellKey, directory := fetchHighlighted, edit := bellEdit, review := fetchReviewed, entry := .other } line s

/-- KEY_REVIEW (R101). -/
def execKeyReview (line : Nat) (s : State) : Host.Outcome State Fault Refusal :=
  functionKey 0x51
    { dark := bellKey, directory := reviewHighlighted, edit := refuseEdit "HELD HERE", review := endReviewKey,
      entry := .other } line s

/-- KEY_RELEASE (R102). -/
def execKeyRelease (line : Nat) (s : State) : Host.Outcome State Fault Refusal := functionKey 0x52 (actionKey releaseHeld) line s
/-- KEY_SEND (R103). -/
def execKeySend (line : Nat) (s : State) : Host.Outcome State Fault Refusal :=
  functionKey 0x53 (actionKey (startEntry (.send []))) line s
/-- KEY_KILL (R104). -/
def execKeyKill (line : Nat) (s : State) : Host.Outcome State Fault Refusal := functionKey 0x54 (actionKey killHeld) line s
/-- KEY_SET (R105). -/
def execKeySet (line : Nat) (s : State) : Host.Outcome State Fault Refusal := functionKey 0x55 (actionKey setHeld) line s

/-- KEY_FIT (R106). -/
def execKeyFit (line : Nat) (s : State) : Host.Outcome State Fault Refusal :=
  functionKey 0x56
    { dark := bellKey, directory := fitHighlighted, edit := fitHeld, review := endReviewKey, entry := .other } line s

/-- KEY_PRIORITY (R107). -/
def execKeyPriority (line : Nat) (s : State) : Host.Outcome State Fault Refusal :=
  functionKey 0x57 (actionKey (startEntry .priority)) line s

/-- KEY_NEXT_BASKET (R75). -/
def execKeyNextBasket (line : Nat) (s : State) : Host.Outcome State Fault Refusal := functionKey 0x58 (basketKey true) line s
/-- KEY_PREV_BASKET (R75). -/
def execKeyPrevBasket (line : Nat) (s : State) : Host.Outcome State Fault Refusal := functionKey 0x59 (basketKey false) line s

/-- KEY_ACK (R84): taken by the terminal controller in DIRECTORY, EDIT and REVIEW, before any entry (R64). -/
def execKeyAck (line : Nat) (s : State) : Host.Outcome State Fault Refusal :=
  takeKey line (HeadKey.isCode 0x5A)
    (fun l ss _ s => if ss.signedOn then s.modSession l Session.clearAlert else s.ring l) s

/-- KEY_OFF (R68): taken by the terminal controller in DIRECTORY, EDIT and REVIEW, before any entry (R64). -/
def execKeyOff (line : Nat) (s : State) : Host.Outcome State Fault Refusal :=
  takeKey line (HeadKey.isCode 0x5B) (fun l ss _ s => if ss.signedOn then s.signOff l ss .key else s.ring l) s

end Sys2Proof.Machine
end

