-- ==== Sys2Proof/Machine/Operands.lean ====
section
/-! DEFINITION. The operand forms of the orders: cells in host frames (R192), texts, masks and story keys (R18, R189). -/

namespace Sys2Proof.Machine

/-! ## Cells (R1, R2, R192) -/

/-- A one-byte cell: the word space, a character of 0x21 to 0x9F, or the substitute (R1). -/
def charCell (b : Byte) : Cell :=
  if b = 0x20 then .space else if 0x20 < b.toNat ∧ b.toNat < 0xA0 then .char b else .char 0x7F

/-- A mark by its kind and value; none for an unknown kind or mode, which is dropped (R2). -/
def markCell (kind value : Nat) : Option Cell :=
  match kind with
  | 0 => some .para
  | 1 => some .line
  | 2 => some (.font value)
  | 3 => some (.size value)
  | 4 => some (.lead value)
  | 5 => (modeOf value).map .mode
  | 6 => some .en
  | 7 => some .em
  | 8 => some .thin
  | 9 => some .hard
  | 10 => some .dhyph
  | 11 => some .noteOn
  | 12 => some .noteOff
  | _ => none

/-- The cells of a body that holds exactly `n` encoded cells, dropped marks left out; none for any other body (R183, R192). -/
def parseCells : Nat → List Byte → Option (List Cell)
  | 0, [] => some []
  | 0, _ :: _ => none
  | _ + 1, [] => none
  | n + 1, b :: rest =>
    if b.toNat < 0xE0 then (parseCells n rest).map (charCell b :: ·)
    else
      match rest with
      | hi :: lo :: rest => (parseCells n rest).map ((markCell (b.toNat - 0xE0) (ofBE16 hi lo)).toList ++ ·)
      | _ => none

def Mode.number : Mode → Nat
  | .justify => 1
  | .left => 2
  | .right => 3
  | .center => 4

/-- A cell as it travels in STORY READ (R192). -/
def Cell.encoded : Cell → List Byte
  | .char c => [c]
  | .space => [0x20]
  | .para => [0xE0, 0, 0]
  | .line => [0xE1, 0, 0]
  | .font f => 0xE2 :: be16 f
  | .size z => 0xE3 :: be16 z
  | .lead v => 0xE4 :: be16 v
  | .mode m => 0xE5 :: be16 m.number
  | .en => [0xE6, 0, 0]
  | .em => [0xE7, 0, 0]
  | .thin => [0xE8, 0, 0]
  | .hard => [0xE9, 0, 0]
  | .dhyph => [0xEA, 0, 0]
  | .noteOn => [0xEB, 0, 0]
  | .noteOff => [0xEC, 0, 0]

/-- The longest run of cells from the front whose encodings fit in `room` bytes (R184). -/
def cellsThatFit : Nat → List Cell → List Cell
  | _, [] => []
  | room, c :: cs => if c.encoded.length ≤ room then c :: cellsThatFit (room - c.encoded.length) cs else []

/-! ## Fields (R189) -/

/-- A text field at the front of a body, and the bytes after it; none when its count exceeds what remains. -/
def takeText : List Byte → Option (List Byte × List Byte)
  | [] => none
  | n :: rest => if n.toNat ≤ rest.length then some (rest.take n.toNat, rest.drop n.toNat) else none

/-- A 24-bit basket mask, SPIKE left out (R37). -/
def maskOfBytes (a b c : Byte) : Mask := maskOf (a.toNat * 65536 + b.toNat * 256 + c.toNat)

/-- A 32-bit accept set; none with a bit above 25 (R109). -/
def acceptOf (n : Nat) : Option AcceptSet := if n < 2 ^ 26 then some (BitVec.ofNat 26 n) else none

/-- The key check of R18: the record of a live key, or the refusal. -/
def State.checkKey (s : State) (hi lo gen : Byte) : Except Res (Sid × Story) :=
  match sidOf (ofBE16 hi lo) with
  | none => .error .noSuchStory
  | some sid =>
    match s.story? sid with
    | none => .error .noSuchStory
    | some st => if s.dir[sid].gen = gen.toNat then .ok (sid, st) else .error .staleKey

/-- The state checks that orders on an OPEN story share (R159, R160, R183): HELD and INTAKE, QUEUED and SETTING, KILLED. -/
def Place.notOpen : Place → Option Res
  | .opn _ => none
  | .intake | .held _ => some .storyHeld
  | .queued .. | .setting .. => some .storyInSet
  | .killed => some .storyKilled

/-- An order whose key check passed goes on with the record; else it is refused (R18). -/
def withKey (hi lo gen : Byte) (s : State) (act : Sid → Story → Answer) : Answer :=
  match s.checkKey hi lo gen with
  | .error r => refused r s
  | .ok (sid, st) => act sid st

end Sys2Proof.Machine
end

