-- ==== Sys2Proof/Machine/LineOrders.lean ====
section
/-! DEFINITION. The orders on lines and terminals, with STATUS (R46, R49, R57, R58, R61, R67, R69, R83, R87, R181, R190). -/

namespace Sys2Proof.Machine

/-- The absent field of a reply, in every byte it occupies (R189). -/
def absent (n : Nat) : List Byte := List.replicate n 0xFF

/-- An optional field of a reply: a presence byte, and the field or its absent bytes (R189, R190). DEDUCED (log 57): the
presence byte is 1 or 0. -/
def optional (n : Nat) (field : Option (List Byte)) : List Byte := withPresence (absent n) field

/-! ## STATUS (R181) -/

/-- A channel's part of the STATUS reply. -/
def State.channelStatus (s : State) (ch : Chan) : List Byte :=
  let c := s.chan ch
  [c.state.byte, reasonByte c.reason, (s.boundLine ch).elim 0xFF lineByte, byte8 c.queue.length]

/-- The number of lines with a role. -/
def State.linesWith (s : State) (r : Role) : Nat := (List.finRange 40).countP fun l => decide (s.lines[l].owner.role = r)

/-- The STATUS reply body (R181, R190). -/
def State.statusBody (s : State) : List Byte :=
  be16 s.freeBlockCount ++ be16 ((List.finRange 512).countP fun sid => (s.story? sid).isNone) ++
    ((List.finRange 24).flatMap fun b => be16 (s.stories b).length) ++ s.channelStatus .a ++ s.channelStatus .b ++
    ([Role.idle, .terminal, .wire, .setter].map fun r => byte8 (s.linesWith r)) ++
    s.loader.result.bytes ++ [byte8 s.host.notices.length] ++ be16 s.host.badFrames ++
    [flagByte s.host.overflow]

/-- STATUS (R181): after its reply is made, the notice-overflow flag is cleared. -/
def execStatus (s : State) : Host.Outcome State Fault Refusal :=
  takeOrderThen 0x01
    (fun body s => if body.isEmpty then doneWith s.statusBody s else refused .badArgument s)
    (fun s => { s with host := { s.host with overflow := false } }) s

/-! ## Line orders -/

/-- LINE ROLE (R46). -/
def lineRole (body : List Byte) (s : State) : Answer :=
  match body with
  | [line, code] =>
    match lineOf line with
    | none => refused .badArgument s
    | some l =>
      let role : Role := if code = 1 then .terminal else if code = 2 then .wire else if code = 3 then .setter else .idle
      if role = s.lines[l].owner.role then doneWith [] s
      else if role.limit ≤ s.othersWith l role then refused .roleLimit s
      else doneWith [] (s.changeRole l role)
  | _ => refused .badArgument s

def execLineRole (s : State) : Host.Outcome State Fault Refusal := takeOrder 0x02 lineRole s

def parityOf (b : Byte) : Option Parity :=
  if b = 0 then some .none else if b = 1 then some .even else if b = 2 then some .odd else none

/-- The settings of a LINE SET order, when every field is in range (R49). -/
def settingsOf (p d1 d2 dataBits parity stopBits : Byte) : Option Settings :=
  match parityOf parity with
  | none => none
  | some par =>
    if (p = 1 ∨ p = 8) ∧ ofBE16 d1 d2 ≤ 4095 ∧ (dataBits = 7 ∨ dataBits = 8) ∧ (stopBits = 1 ∨ stopBits = 2) then
      some { p := p.toNat, d := ofBE16 d1 d2, dataBits := dataBits.toNat, parity := par, stopBits := stopBits.toNat }
    else none

/-- LINE SET (R49): the new settings stand, and the receiver hunts under them from WAIT-MARK. -/
def lineSet (body : List Byte) (s : State) : Answer :=
  match body with
  | [line, p, d1, d2, dataBits, parity, stopBits] =>
    match lineOf line, settingsOf p d1 d2 dataBits parity stopBits with
    | some l, some x => doneWith [] (s.modLine l fun r => { r with settings := x, rx := .waitMark })
    | _, _ => refused .badArgument s
  | _ => refused .badArgument s

def execLineSet (s : State) : Host.Outcome State Fault Refusal := takeOrder 0x03 lineSet s

/-- LINE RESET (R61). -/
def lineReset (body : List Byte) (s : State) : Answer :=
  match body with
  | [line] =>
    match lineOf line with
    | some l => doneWith [] (s.resetLine l)
    | none => refused .badArgument s
  | _ => refused .badArgument s

def execLineReset (s : State) : Host.Outcome State Fault Refusal := takeOrder 0x04 lineReset s

def Role.byte : Role → Byte
  | .idle => 0
  | .terminal => 1
  | .wire => 2
  | .setter => 3

def Parity.byte : Parity → Byte
  | .none => 0
  | .even => 1
  | .odd => 2

def SessState.byte : SessState → Byte
  | .dark => 0
  | .directory => 1
  | .edit => 2
  | .review => 3

def DispMode.byte : DispMode → Byte
  | .normal => 0
  | .inverse => 1
  | .blank => 2
  | .test => 3

def IntakeState.byte : IntakeState → Byte
  | .seek => 0
  | .heading => 1
  | .body => 2
  | .skip => 3
  | .noisy => 4

/-- The receive level, 0 MARK or 1 SPACE, sampled now (R57, R190). -/
def State.levelByte (s : State) (l : LineNo) : Byte := flagByte (!s.markingNow l)

/-- A channel's part of LINE STATUS (R57, R190). -/
def State.setterPart (s : State) (l : LineNo) : List Byte :=
  match s.boundChan l with
  | none => absent 2 ++ optional 3 none ++ optional 1 none
  | some ch =>
    let c := s.chan ch
    [chanByte ch, c.state.byte] ++ optional 3 (c.job?.map fun j => jobBytes ch j.number) ++
      optional 1 (c.lastStatus.map fun b => [b])

/-- The role part of LINE STATUS (R57, R190). -/
def State.rolePart (s : State) (l : LineNo) : List Byte :=
  match s.lines[l].owner with
  | .idle => [s.levelByte l, byte8 s.lines[l].test.length]
  | .terminal ss => [ss.state.byte, ss.mode.byte, byte8 ss.fifo.length, byte8 ss.dirtyRows.length]
  | .wire ik =>
    [ik.state.byte] ++ optional 3 (ik.item.map fun it => it.service :: be16 it.number) ++
      [byte8 ik.errorRun, s.levelByte l]
  | .setter => s.setterPart l

/-- The LINE STATUS reply body (R57, R190). -/
def State.lineStatusBody (s : State) (l : LineNo) : List Byte :=
  let r := s.lines[l]
  [r.owner.role.byte, byte8 r.settings.p] ++ be16 r.settings.d ++
    [byte8 r.settings.dataBits, r.settings.parity.byte, byte8 r.settings.stopBits] ++ be16 r.parityErrors ++
    be16 r.framingErrors ++ be16 r.overruns ++ be16 r.breaks ++ s.rolePart l

def LineRec.clearCounts (r : LineRec) : LineRec := { r with parityErrors := 0, framingErrors := 0, overruns := 0, breaks := 0 }

/-- LINE STATUS (R57). -/
def lineStatus (body : List Byte) (s : State) : Answer :=
  match body with
  | [line, clear] =>
    match lineOf line, parseFlag clear with
    | some l, some c => doneWith (s.lineStatusBody l) (if c then s.modLine l LineRec.clearCounts else s)
    | _, _ => refused .badArgument s
  | _ => refused .badArgument s

def execLineStatus (s : State) : Host.Outcome State Fault Refusal := takeOrder 0x05 lineStatus s

/-- LINE TEST (R58). -/
def lineTest (body : List Byte) (s : State) : Answer :=
  match body with
  | line :: rest =>
    match lineOf line, takeText rest with
    | some l, some (pattern, []) =>
      if pattern.isEmpty || decide (64 < pattern.length) then refused .badArgument s
      else if s.lines[l].owner.role = .idle then doneWith [] (s.modLine l fun r => { r with test := pattern })
      else refused .wrongRole s
    | _, _ => refused .badArgument s
  | [] => refused .badArgument s

def execLineTest (s : State) : Host.Outcome State Fault Refusal := takeOrder 0x06 lineTest s

/-! ## Terminal orders -/

/-- SIGN ON (R67). -/
def signOnOrder (body : List Byte) (s : State) : Answer :=
  match body with
  | [line, profile] =>
    match lineOf line, profileOf profile with
    | some l, some n =>
      match s.session? l with
      | none => refused .wrongRole s
      | some ss => if ss.state = .dark then doneWith [] (s.signOn l n .order) else refused .notPermitted s
    | _, _ => refused .badArgument s
  | _ => refused .badArgument s

def execSignOn (s : State) : Host.Outcome State Fault Refusal := takeOrder 0x07 signOnOrder s

/-- SIGN OFF (R69). -/
def signOffOrder (body : List Byte) (s : State) : Answer :=
  match body with
  | [line] =>
    match lineOf line with
    | none => refused .badArgument s
    | some l =>
      match s.session? l with
      | none => refused .wrongRole s
      | some ss => doneWith [] (if ss.state = .dark then s else s.signOff l ss .order)
  | _ => refused .badArgument s

def execSignOff (s : State) : Host.Outcome State Fault Refusal := takeOrder 0x08 signOffOrder s

/-- A text a TERMINAL MESSAGE may carry (R87). -/
def messageOk (t : List Byte) : Bool :=
  !t.isEmpty && decide (t.length ≤ 35) && t.all fun b => decide (0x20 ≤ b.toNat) && decide (b.toNat ≤ 0x7E)

/-- A host's message on a session: shown with a bell (R87). -/
def Session.hostMessage (t : List Byte) (ss : Session) : Session := (ss.say t).ring

/-- TERMINAL MESSAGE (R87). -/
def terminalMessage (body : List Byte) (s : State) : Answer :=
  match body with
  | line :: rest =>
    match takeText rest with
    | some (t, []) =>
      if !messageOk t then refused .badArgument s
      else if line = 0xFF then doneWith [] (s.modSessions fun _ => Session.hostMessage t)
      else
        match lineOf line with
        | none => refused .badArgument s
        | some l =>
          if (s.session? l).isSome then doneWith [] (s.modSession l (Session.hostMessage t)) else refused .wrongRole s
    | _ => refused .badArgument s
  | [] => refused .badArgument s

def execTerminalMessage (s : State) : Host.Outcome State Fault Refusal := takeOrder 0x09 terminalMessage s

def dispModeOf (b : Byte) : Option DispMode :=
  if b = 0 then some .normal else if b = 1 then some .inverse else if b = 2 then some .blank
  else if b = 3 then some .test else none

/-- A session enters a display mode by order. Leaving BLANK is a waking, which starts the blank timer (R80 to R83). -/
def Session.enterMode (m : DispMode) (ss : Session) : Session :=
  let old := ss.mode
  let ss := { ss with mode := m }.pendMode m.code
  let ss := if old = .test ∨ m = .test ∨ old = .blank then ss.markAll else ss
  if old = .blank then ss.pendCursor else ss

/-- The order starts the blank timer: it sets NORMAL or INVERSE, or it wakes the session from BLANK (R81, R82; log 30). -/
def DispMode.startsBlank (old new : DispMode) : Bool :=
  new == .normal || new == .inverse || (old == .blank && new != .blank)

/-- What DISPLAY MODE does to a session: a mode equal to the present one makes its mode code pending again (R83). -/
def Session.orderMode (m : DispMode) (blankTime : Nat) (ss : Session) : Session :=
  let new := if ss.mode = m then ss.pendMode m.code else ss.enterMode m
  if ss.mode.startsBlank m then new.startBlank blankTime else new

/-- DISPLAY MODE (R83). -/
def displayMode (body : List Byte) (s : State) : Answer :=
  match body with
  | [line, mode] =>
    match lineOf line, dispModeOf mode with
    | some l, some m =>
      match s.session? l with
      | none => refused .wrongRole s
      | some _ => doneWith [] (s.modSession l (Session.orderMode m s.term.blankTime))
    | _, _ => refused .badArgument s
  | _ => refused .badArgument s

def execDisplayMode (s : State) : Host.Outcome State Fault Refusal := takeOrder 0x0A displayMode s

end Sys2Proof.Machine
end

