-- ==== Sys2Proof/Machine/Flags.lean ====
section
/-! DEFINITION. The receiver's errors, the status a character carries, and the line's level behind a frame (R50, R51, R53). -/

namespace Sys2Proof.Machine

/-- The number of ones among the bits of a byte. -/
def onesOf (b : Byte) : Nat := (List.range 8).countP fun i => b.getLsbD i

/-- The parity bit agrees with the data bits (R50). -/
def parityAgrees (p : Parity) (data : Byte) (parityBit : Bool) : Bool :=
  match p with
  | .none => true
  | .even => (onesOf data + parityBit.toNat) % 2 == 0
  | .odd => (onesOf data + parityBit.toNat) % 2 == 1

/-- The parity bit of a frame's data: it makes the number of ones among the data bits and itself even, or odd (R50). -/
def Parity.bit (p : Parity) (data : Byte) : List Bool :=
  match p with
  | .none => []
  | .even => [onesOf data % 2 == 1]
  | .odd => [onesOf data % 2 == 0]

/-- The levels of the frame the shift stage sends, one for each bit time, true for marking: the start bit, the data bits
with the least significant first, the parity bit when there is one, and the stop bits (R50, R56). -/
def TxFrame.levels (t : TxFrame) : List Bool :=
  false :: ((List.range t.settings.dataBits).map fun i => t.byte.getLsbD i) ++ t.settings.parity.bit t.byte ++
    List.replicate t.settings.stopBits true

/-- A line's character time in bit times: 1 + data bits + (0 or 1) + stop bits (R50). -/
def Settings.frameLength (x : Settings) : Nat :=
  1 + x.dataBits + (if x.parity = .none then 0 else 1) + x.stopBits

/-- What a line's transmit pin shows, one level for each bit time of the frame in the shift stage; with none it rests
marking (R50, R56). -/
def LineRec.txLevels (r : LineRec) : List Bool := r.shift.elim [true] TxFrame.levels

/-- The errors of one frame (R51). -/
structure RxErrors where
  parity : Bool
  framing : Bool
  overrun : Bool
deriving DecidableEq, Repr

/-- A character's single status: the first that applies (R51). -/
def RxErrors.status (e : RxErrors) : CharStatus :=
  if e.overrun then .overrun else if e.framing then .framing else if e.parity then .parity else .good

/-- A count that stays at 65,535 (R55). -/
def bump (hit : Bool) (n : Nat) : Nat := if hit then Nat.min 65535 (n + 1) else n

/-- A completed frame: the character as a byte, and its errors (R50, R51). -/
def LineRec.frameErrors (data : Byte) (parityBit stopBit : Bool) (r : LineRec) : Byte × RxErrors :=
  let byte := if r.settings.dataBits = 7 then data &&& 0x7F else data
  (byte, { parity := !parityAgrees r.settings.parity byte parityBit, framing := !stopBit, overrun := r.slot.isSome })

/-- The line's level when a frame has ended in a character, as far as the samples tell it: marking at a marking stop bit, and,
after a frame of which every bit was spacing, at the sample after it, for with a spacing one the frame were a break (R51, R53). -/
def LineRec.frameMarks (data : Byte) (parityBit stopBit : Bool) (r : LineRec) : Bool :=
  stopBit || ((r.frameErrors data parityBit stopBit).1 == 0 && (r.settings.parity == .none || !parityBit))

/-- The counts after a frame's errors (R55). -/
def LineRec.countErrors (e : RxErrors) (r : LineRec) : LineRec :=
  { r with parityErrors := bump e.parity r.parityErrors, framingErrors := bump e.framing r.framingErrors,
           overruns := bump e.overrun r.overruns }

end Sys2Proof.Machine
end

