-- ==== Sys2Proof/Machine/Setter.lean ====
section
/-! DEFINITION. The events of a setting channel and of the fit unit: status bytes (R163, R170), dwell expiry (R167), staging
(R166), stall (R169), and the end of a fit (R155 to R157). -/

namespace Sys2Proof.Machine

/-! ## Status bytes (R163, R169, R170, R194) -/

/-- The channel waits for staging, with no code or dwell in progress (R166). -/
def Channel.waiting (c : Channel) : Bool := c.run.any fun r => r.phase == .due

/-- READY by the channel's state (R163). -/
def State.setterReady (ch : Chan) (s : State) : State :=
  let s := s.modChan ch fun c => { c with flow := true }
  match (s.chan ch).state with
  | .offline => if (s.boundLine ch).isSome then ((s.chanTo ch .idle none).startJob ch).goOn ch else s
  | .idle | .running => s
  | .paused => ((s.modChan ch fun c => { c with stallTimer := none }).chanTo ch .running none).goOn ch

/-- The channel enters PAUSED: the stall timer starts with the limit in force (R169). -/
def State.pause (ch : Chan) (s : State) : State :=
  (s.modChan ch fun c => { c with stallTimer := some c.params.stall }).chanTo ch .paused none

/-- NOT READY by the channel's state (R163, R166). -/
def State.setterNotReady (ch : Chan) (s : State) : State :=
  let s := s.modChan ch fun c => { c with flow := false }
  match (s.chan ch).state with
  | .offline | .paused => s
  | .idle => s.chanTo ch .offline (some .notReady)
  | .running => if (s.chan ch).waiting then s.pause ch else s

/-- FAULT by the channel's state (R163, R170). -/
def State.setterFault (ch : Chan) (s : State) : State :=
  let s := s.modChan ch fun c => { c with flow := false }
  match (s.chan ch).state with
  | .offline | .idle => s.chanTo ch .offline (some .fault)
  | .running | .paused => ((s.dropPlaced (s.boundLine ch)).endJob ch .setterFault).chanTo ch .offline (some .fault)

/-- A GOOD character from the setter: the last status byte, and its effect by its value (R163). -/
def State.setterByte (ch : Chan) (b : Byte) (s : State) : State :=
  let s := s.modChan ch fun c => { c with lastStatus := some b }
  if b = 0x11 then s.setterReady ch
  else if b = 0x13 then s.setterNotReady ch
  else if b = 0x15 then s.setterFault ch
  else s

/-! ## The channel's own events -/

/-- DWELL_EXPIRY (R167). -/
def execDwellExpiry (ch : Chan) (s : State) : Host.Outcome State Fault Refusal :=
  match (s.chan ch).run with
  | some r =>
    match r.phase with
    | .dwell code _ => ended s ((s.expireDwell ch code).goOn ch)
    | .placing .. | .due => .next s
  | none => .next s

/-- STAGING_DONE (R166, R168): a line record is complete; a waiting channel sends it at once. -/
def execStagingDone (ch : Chan) (s : State) : Host.Outcome State Fault Refusal :=
  match (s.chan ch).job? with
  | some j =>
    if (s.chan ch).staging then ended s ((s.modChan ch (Channel.stage (s.jobTexts j))).goOn ch) else .next s
  | none => .next s

/-- STALL_TIMER_EXPIRY (R169). -/
def execStallTimerExpiry (ch : Chan) (s : State) : Host.Outcome State Fault Refusal :=
  if (s.chan ch).state = .paused ∧ (s.chan ch).stallTimer.isSome then
    ended s ((s.endJob ch .setterStalled).chanTo ch .offline (some .stalled))
  else .next s

/-! ## The end of a fit (R155 to R157) -/

/-- A depth from a fit's totals (R148, R157). -/
def Totals.toDepth (t : Totals) : Depth :=
  { halfPoints := t.depth, lines := t.lines, stale := false, loose := t.loose, overlong := t.overlong, missing := t.missing }

/-- An unspoiled fit's result is written (R157). -/
def State.writeFit (k : Key) (r : FitRun) (t : Totals) (s : State) : State :=
  (((s.modStory k.sid fun st => { st with depth := some t.toDepth }).offer (.fitDone k r.formatNo t)).markShown k.sid).markListed
    k.sid

/-- The totals of the fit in progress, over the text as it stands (R148, R151). -/
def FitRun.result (r : FitRun) (cells : List Cell) : Totals :=
  (Copies.walk { format := r.format, widths := r.widths } cells (cells.length + 1) r.fitter).totals

/-- FIT_COMPLETE (R155 to R157): the walk reaches the story end, and the fitter takes the next head. -/
def execFitComplete (s : State) : Host.Outcome State Fault Refusal :=
  match s.fitQueue with
  | { key := k, active := some r } :: rest =>
    let requeued := rest ++ [{ key := k, active := none }]
    if r.spoiled then ended s (State.takeFit { s with fitQueue := requeued })
    else
      let w := s.writeFit k r (r.result (s.text k.sid))
      ended s (State.takeFit { w with fitQueue := if r.again then requeued else rest })
  | _ => .next s

end Sys2Proof.Machine
end

