-- ==== Sys2Proof/Machine/Mux.lean ====
section
/-! DEFINITION. The line multiplexer's events: characters, breaks and idles received and handed over (R50 to R54), the transmitter
(R56), and a session's characters and timers (R79, R81, R82, R84 to R86). -/

namespace Sys2Proof.Machine

/-! ## Characters at a session (R81, R82, R85, R86) -/

/-- The last byte of a FIFO is a lead byte that still waits for its code (R85). -/
def endsInLead : List Byte → Bool
  | [] => false
  | [b] => b == 0x1F
  | b :: k :: rest => if b = 0x1F then endsInLead rest else endsInLead (k :: rest)

/-- An unpaired lead byte is removed from the tail of the FIFO (R79, R85, R86). -/
def dropLead (fifo : List Byte) : List Byte := if endsInLead fifo then fifo.dropLast else fifo

/-- A GOOD character handed to a session, by the tests of R85 in order. DESIGN CHOICE (log 50): a byte 0x1F that comes as
the code an unpaired lead byte waits for is tested as a lead byte. -/
def Session.fileKey (blankTime : Nat) (b : Byte) (ss : Session) : Session :=
  if ss.mode = .blank then
    { ss.wake blankTime with fifo := dropLead ss.fifo, discardNext := ss.discardNext || b == 0x1F }
  else if ss.discardNext then { ss with discardNext := false }
  else if b = 0x1F then
    if ss.fifo.length + 2 ≤ 16 then { ss with fifo := ss.fifo ++ [b] } else { ss.ring with discardNext := true }
  else if ss.fifo.length < 16 then { ss with fifo := ss.fifo ++ [b] }
  else ss.ring

/-- A character handed to a session starts the blank timer, and is filed or lost (R81, R85, R86). -/
def Session.receive (blankTime : Nat) (c : RxChar) (ss : Session) : Session :=
  let ss := ss.startBlank blankTime
  if c.status = .good then ss.fileKey blankTime c.byte
  else { ss.ring with discardNext := false, fifo := dropLead ss.fifo }

/-- A break on a TERMINAL line (R79). -/
def Session.breakSeen (ss : Session) : Session :=
  let ss := (ss.markAll.pendMode ss.mode.code).pendCursor
  { ss with fifo := dropLead ss.fifo, discardNext := false }

/-! ## The receiver (R51 to R54) -/

/-- The receiver enters HUNT, which starts a WIRE line's idle timer (R51, R53). -/
def LineRec.hunt (marking : Bool) (r : LineRec) : LineRec :=
  { r with rx := .hunt, marking := marking, idleTimer := decide (r.owner.role = .wire) }

/-- A completed character is handed over by the line's role (R52, R54). -/
def State.handOver (l : LineNo) (c : RxChar) (s : State) : State :=
  match s.lines[l].owner with
  | .idle => s
  | .terminal ss => s.setSession l (ss.receive s.term.blankTime c)
  | .wire _ => s.modLine l fun r => { r with slot := some c }
  | .setter =>
    match s.boundChan l with
    | some ch => if c.status = .good then s.setterByte ch c.byte else s
    | none => s

/-- A frame has ended with the line at a level: its errors are counted and its character handed over (R51, R55). -/
def State.frameEnd (l : LineNo) (byte : Byte) (e : RxErrors) (marking : Bool) (s : State) : State :=
  (s.modLine l fun r => (r.countErrors e).hunt marking).handOver l { byte := byte, status := e.status }

/-- CHARACTER_RECEIVED (R51). -/
def execCharacterReceived (line : Nat) (data : Byte) (parityBit stopBit : Bool) (s : State) :
    Host.Outcome State Fault Refusal :=
  onLine line s fun l =>
    if s.lines[l].rx = .assemble then
      let f := s.lines[l].frameErrors data parityBit stopBit
      ended s (s.frameEnd l f.1 f.2 (s.lines[l].frameMarks data parityBit stopBit))
    else .next s

/-- A GOOD frame carrying a status byte ends on a channel's bound line (R163, R194; log 14). -/
def statusFrame (ch : Chan) (b : Byte) (s : State) : Host.Outcome State Fault Refusal :=
  match s.boundLine ch with
  | none => .next s
  | some l =>
    if s.lines[l].rx = .assemble then
      ended s (s.frameEnd l b { parity := false, framing := false, overrun := s.lines[l].slot.isSome } true)
    else .next s

/-- READY (R163). -/
def execReady (ch : Chan) (s : State) : Host.Outcome State Fault Refusal := statusFrame ch 0x11 s
/-- NOT_READY (R163). -/
def execNotReady (ch : Chan) (s : State) : Host.Outcome State Fault Refusal := statusFrame ch 0x13 s
/-- FAULT (R163, R170). -/
def execFault (ch : Chan) (s : State) : Host.Outcome State Fault Refusal := statusFrame ch 0x15 s

/-- A break handed over by the line's role (R54). -/
def State.breakFound (l : LineNo) (s : State) : State :=
  match s.lines[l].owner with
  | .idle | .setter => s
  | .terminal ss => s.setSession l ss.breakSeen
  | .wire ik => (s.setIntake l { ik with handed := ik.handed ++ [.brk] }).offer (.lineFault l false)

/-- BREAK_DETECTED (R53). -/
def execBreakDetected (line : Nat) (s : State) : Host.Outcome State Fault Refusal :=
  onLine line s fun l =>
    if s.lines[l].rx = .assemble then
      ended s ((s.modLine l fun r => { r with rx := .brk, marking := false, breaks := bump true r.breaks }).breakFound l)
    else .next s

/-- IDLE_TIMER_EXPIRY (R53): the idle is handed to the intake, and the timer stays stopped. -/
def execIdleTimerExpiry (line : Nat) (s : State) : Host.Outcome State Fault Refusal :=
  onLine line s fun l =>
    match s.intake? l with
    | none => .next s
    | some ik =>
      if s.lines[l].idleTimer then
        ended s ((s.modLine l fun r => { r with idleTimer := false }).setIntake l { ik with handed := ik.handed ++ [.idle] })
      else .next s

/-- LINE_SAMPLED_MARKING (R51, R53). -/
def execLineSampledMarking (line : Nat) (s : State) : Host.Outcome State Fault Refusal :=
  onLine line s fun l =>
    match s.lines[l].rx with
    | .waitMark | .brk => ended s (s.modLine l (LineRec.hunt true))
    | .hunt | .assemble => .next s

/-- START_BIT_SAMPLED (R51, R53): the idle timer stops. -/
def execStartBitSampled (line : Nat) (s : State) : Host.Outcome State Fault Refusal :=
  onLine line s fun l =>
    if s.lines[l].rx = .hunt then
      ended s (s.modLine l fun r => { r with rx := .assemble, marking := false, idleTimer := false })
    else .next s

/-- FALSE_START (R51). -/
def execFalseStart (line : Nat) (s : State) : Host.Outcome State Fault Refusal :=
  onLine line s fun l =>
    if s.lines[l].rx = .assemble then ended s (s.modLine l (LineRec.hunt true)) else .next s

/-! ## The transmitter (R56) -/

/-- The shift stage has finished a frame and takes the byte in the holding slot (R56). -/
def LineRec.shiftOut (r : LineRec) : LineRec :=
  match r.holding with
  | none => { r with shift := none }
  | some b => { r with shift := none, holding := none }.put b

/-- TX_FRAME_END (R56): the owner is told that the holding slot is empty; a session or a test buffer fills it at the end of
the event, a channel goes on with its code. -/
def execTxFrameEnd (line : Nat) (s : State) : Host.Outcome State Fault Refusal :=
  onLine line s fun l =>
    if s.lines[l].shift.isSome then
      let t := s.modLine l LineRec.shiftOut
      ended s
        (match s.boundChan l with
          | some ch => t.goOn ch
          | none => t)
    else .next s

/-! ## A session's timers (R81, R84) -/

/-- A blank timer's expiry (R81). -/
def Session.blankExpired (ss : Session) : Session :=
  let ss := { ss with blankTimer := none }
  match ss.mode with
  | .normal | .inverse => { ss with mode := .blank }.pendMode .blank
  | .blank | .test => ss

/-- BLANK_TIMER_EXPIRY (R81). -/
def execBlankTimerExpiry (line : Nat) (s : State) : Host.Outcome State Fault Refusal :=
  onLine line s fun l =>
    match s.session? l with
    | none => .next s
    | some ss => if ss.blankTimer.isSome then ended s (s.setSession l ss.blankExpired) else .next s

/-- A blink timer's expiry: the phase changes, and the timer starts with the new phase's length (R84). -/
def Session.blinkExpired (t : TermSettings) (ss : Session) : Session :=
  { ss with blinkOn := !ss.blinkOn, blinkTimer := some (if ss.blinkOn then t.blinkOff else t.blinkOn) }.markRow 0

/-- BLINK_TIMER_EXPIRY (R84). -/
def execBlinkTimerExpiry (line : Nat) (s : State) : Host.Outcome State Fault Refusal :=
  onLine line s fun l =>
    match s.session? l with
    | none => .next s
    | some ss => if ss.blinkTimer.isSome then ended s (s.setSession l (ss.blinkExpired s.term)) else .next s

end Sys2Proof.Machine
end

