-- ==== Sys2Proof/Machine/SetOrders.lean ====
section
/-! DEFINITION. The orders on setting channels and the load orders (R25, R37, R109, R124, R126, R159, R160, R162, R171, R172). -/

namespace Sys2Proof.Machine

/-- An order answered TAKEN (R179). -/
def takenWith (body : List Byte) (s : State) : Answer := { res := .taken, body := body, state := s }

/-- The job reference of the job a channel would now accept (R158). -/
def State.nextJob (s : State) (ch : Chan) : List Byte := jobBytes ch (s.chan ch).counter

/-- A set queue is full (R159, R160). -/
def State.queueFull (s : State) (ch : Chan) : Bool := decide (32 ≤ (s.chan ch).queue.length)

/-- An after-basket byte: 0xFF for none, else 0 to 22; none for any other (R159). -/
def afterBasketOf (b : Byte) : Option (Option BasketNo) := if b = 0xFF then some none else (deskOf b).map some

/-- SET STORY (R159). -/
def setStory (body : List Byte) (s : State) : Answer :=
  match body with
  | [n1, n2, gen, channel, rush, after] =>
    match chanOf channel, parseFlag rush, afterBasketOf after with
    | some ch, some r, some a =>
      withKey n1 n2 gen s fun sid st =>
        match st.place.notOpen with
        | some x => refused x s
        | none =>
          if s.queueFull ch then refused .queueFull s
          else
            takenWith (s.nextJob ch)
              (s.acceptJob ch false r none (some (a.getD st.home)) [storySegment (s.keyOf sid)])
    | _, _, _ => refused .badArgument s
  | _ => refused .badArgument s

def execSetStory (s : State) : Host.Outcome State Fault Refusal := takeOrder 0x21 setStory s

/-- A segment of a SET PAGE order as its bytes give it (R190). -/
structure RawSegment where
  n1 : Byte
  n2 : Byte
  gen : Byte
  measure : Nat
  depth : Nat
  column : Nat
  top : Nat
deriving DecidableEq, Repr

/-- Exactly `n` segments. -/
def parseSegments : Nat → List Byte → Option (List RawSegment)
  | 0, [] => some []
  | n + 1, n1 :: n2 :: g :: m1 :: m2 :: d1 :: d2 :: c1 :: c2 :: t1 :: t2 :: rest =>
    (parseSegments n rest).map
      ({ n1 := n1, n2 := n2, gen := g, measure := ofBE16 m1 m2, depth := ofBE16 d1 d2, column := ofBE16 c1 c2,
         top := ofBE16 t1 t2 } :: ·)
  | _, _ => none

/-- A measure override (R158). -/
def measureOk (m : Nat) : Bool := m == 0 || within 72 360 m

/-- A segment's check against the segments before it (R160). -/
def State.checkSegment (s : State) (earlier : List Segment) (r : RawSegment) : Except Res Segment :=
  match s.checkKey r.n1 r.n2 r.gen with
  | .error x => .error x
  | .ok (sid, st) =>
    if earlier.any fun g => g.key.sid == sid then .error .badArgument
    else
      match st.place.notOpen with
      | some x => .error x
      | none => .ok { key := s.keyOf sid, measure := r.measure, depth := r.depth, column := r.column, top := r.top }

/-- The segments are checked in order; the first that fails gives the refusal with its position and key (R160). -/
def State.checkSegments (s : State) : List Segment → List RawSegment → Except (Res × List Byte) (List Segment)
  | done, [] => .ok done
  | done, r :: rest =>
    match s.checkSegment done r with
    | .error x => .error (x, [byte8 (done.length + 1), r.n1, r.n2, r.gen])
    | .ok g => s.checkSegments (done ++ [g]) rest

/-- SET PAGE (R160): the order is checked whole before anything changes. -/
def setPage (body : List Byte) (s : State) : Answer :=
  match body with
  | channel :: rush :: count :: rest =>
    match chanOf channel, parseFlag rush, parseSegments count.toNat rest with
    | some ch, some r, some raw =>
      if within 1 16 raw.length && raw.all fun g => measureOk g.measure then
        match s.checkSegments [] raw with
        | .error (x, body) => { res := x, body := body, state := s }
        | .ok segs =>
          if s.queueFull ch then refused .queueFull s
          else takenWith (s.nextJob ch) (s.acceptJob ch true r none none segs)
      else refused .badArgument s
    | _, _, _ => refused .badArgument s
  | _ => refused .badArgument s

def execSetPage (s : State) : Host.Outcome State Fault Refusal := takeOrder 0x22 setPage s

/-- A waiting job of this number. -/
def Job.waitsAs (number : Nat) (j : Job) : Bool := j.number == number && !j.running

/-- The removal of the waiting job of a number that stands nearest the head: its stories return home in segment order
(R172). DESIGN CHOICE (log 55): the nearest the head, where the wrapped counter has given two waiting jobs one number. -/
def State.withdrawJob (ch : Chan) (j : Job) (s : State) : State :=
  let s := s.modChan ch fun c => { c with queue := c.queue.eraseP (Job.waitsAs j.number) }
  j.segments.foldl (fun s g => s.storyHome g.key.sid) s

/-- WITHDRAW (R172). -/
def withdraw (body : List Byte) (s : State) : Answer :=
  match body with
  | [channel, j1, j2] =>
    match chanOf channel with
    | none => refused .badArgument s
    | some ch =>
      match (s.chan ch).queue.find? (Job.waitsAs (ofBE16 j1 j2)) with
      | some j => doneWith [] (s.withdrawJob ch j)
      | none => refused .noSuchJob s
  | _ => refused .badArgument s

def execWithdraw (s : State) : Host.Outcome State Fault Refusal := takeOrder 0x23 withdraw s

/-- The CANCEL code is placed at once (R171). -/
def State.placeCancel (ch : Chan) (s : State) : State :=
  (s.modChan ch fun c => { c.setPhase (.placing .cancel Code.cancel.bytes) with stallTimer := none }).goOn ch

/-- What CANCEL does to the running job (R171). -/
def State.cancelRun (ch : Chan) (r : Run) (s : State) : State :=
  let c := s.chan ch
  if c.cancelPending then s
  else
    match r.phase with
    | .placing code _ =>
      if code.isJobEnd || (c.state == .paused && code == .cancel) then s
      else s.modChan ch fun c => { c with cancelPending := true }
    | .dwell .. => s.modChan ch fun c => { c with cancelPending := true }
    | .due => s.placeCancel ch

/-- CANCEL (R171). -/
def cancelOrder (body : List Byte) (s : State) : Answer :=
  match body with
  | [channel, j1, j2] =>
    match chanOf channel with
    | none => refused .badArgument s
    | some ch =>
      match (s.chan ch).job?, (s.chan ch).run with
      | some j, some r => if j.number = ofBE16 j1 j2 then takenWith [] (s.cancelRun ch r) else refused .notRunning s
      | _, _ => refused .notRunning s
  | _ => refused .badArgument s

def execCancel (s : State) : Host.Outcome State Fault Refusal := takeOrder 0x24 cancelOrder s

/-! ## Load orders -/

/-- The fields of FORMAT LOAD after its name (R190). -/
def formatFields (name rest : List Byte) : Option RawFormat :=
  match rest with
  | [m1, m2, font, size, l1, l2, mode, mn, opt, mx, letter, indent, extra] =>
    some { name := name, measure := ofBE16 m1 m2, font := font.toNat, size := size.toNat, leading := ofBE16 l1 l2,
           mode := modeOf mode.toNat, minSpace := mn.toNat, optSpace := opt.toNat, maxSpace := mx.toNat,
           letterspace := letter.toNat, indent := indent.toNat, extraLead := extra.toNat }
  | _ => none

/-- FORMAT LOAD (R124, R154). -/
def formatLoad (body : List Byte) (s : State) : Answer :=
  match body with
  | record :: rest =>
    match formatOf record, takeText rest with
    | some n, some (name, fields) =>
      match (formatFields name fields).bind RawFormat.check with
      | some f => doneWith [] (State.outdateFit { s with formats := s.formats.set n f })
      | none => refused .badArgument s
    | _, _ => refused .badArgument s
  | [] => refused .badArgument s

def execFormatLoad (s : State) : Host.Outcome State Fault Refusal := takeOrder 0x30 formatLoad s

/-- A font's number from a byte (R126). -/
def fontOf (b : Byte) : Option (Fin 16) := if h : b.toNat < 16 then some ⟨b.toNat, h⟩ else none

/-- WIDTH LOAD (R126, R154). -/
def widthLoad (body : List Byte) (s : State) : Answer :=
  match body with
  | font :: first :: count :: entries =>
    match fontOf font with
    | none => refused .badArgument s
    | some f =>
      if within 0x20 0x9F first.toNat && decide (0 < count.toNat) && decide (first.toNat + count.toNat ≤ 0xA0) &&
          entries.length == count.toNat && entries.all fun b => decide (b.toNat ≤ 63) then
        doneWith []
          (State.outdateFit
            { s with widths := s.widths.set f (putWidths (first.toNat - 0x20) (entries.map fun b => b.toNat) s.widths[f]) })
      else refused .badArgument s
  | _ => refused .badArgument s

def execWidthLoad (s : State) : Host.Outcome State Fault Refusal := takeOrder 0x31 widthLoad s

/-- BASKET NAME (R25). -/
def basketNameOrder (body : List Byte) (s : State) : Answer :=
  match body with
  | basket :: rest =>
    match basketOf basket, takeText rest with
    | some b, some (name, []) =>
      if within 1 22 b.val && validName 8 name then
        doneWith [] ((s.setBasket b { s.baskets[b] with name := name }).markNamed b)
      else refused .badArgument s
    | _, _ => refused .badArgument s
  | [] => refused .badArgument s

def execBasketName (s : State) : Host.Outcome State Fault Refusal := takeOrder 0x32 basketNameOrder s

/-- The fields of PROFILE LOAD after its name (R190). -/
def profileFields (code name rest : List Byte) : Option RawProfile :=
  match rest with
  | [t1, t2, t3, s1, s2, s3, w1, w2, w3, permissions, basket, channel] =>
    some { code := if code.all isDigit then some (digitsValue code) else none, name := name, take := maskOfBytes t1 t2 t3,
           send := maskOfBytes s1 s2 s3, watch := maskOfBytes w1 w2 w3, permissions := permissions, basket := basket,
           channel := chanOf channel }
  | _ => none

/-- PROFILE LOAD (R37). -/
def profileLoad (body : List Byte) (s : State) : Answer :=
  match body with
  | profile :: d1 :: d2 :: d3 :: d4 :: rest =>
    match profileOf profile, takeText rest with
    | some n, some (name, fields) =>
      match (profileFields [d1, d2, d3, d4] name fields).bind RawProfile.check with
      | some p => doneWith [] { s with profiles := s.profiles.set n p }
      | none => refused .badArgument s
    | _, _ => refused .badArgument s
  | _ => refused .badArgument s

def execProfileLoad (s : State) : Host.Outcome State Fault Refusal := takeOrder 0x33 profileLoad s

/-- WIRE ACCEPT (R109). -/
def wireAccept (body : List Byte) (s : State) : Answer :=
  match body with
  | [line, a1, a2, a3, a4, idle] =>
    match lineOf line, acceptOf (ofBE16 a1 a2 * 65536 + ofBE16 a3 a4) with
    | some l, some set =>
      if within 1 30 idle.toNat then doneWith [] (s.modLine l fun r => { r with accept := set, idleTime := idle.toNat })
      else refused .badArgument s
    | _, _ => refused .badArgument s
  | _ => refused .badArgument s

def execWireAccept (s : State) : Host.Outcome State Fault Refusal := takeOrder 0x34 wireAccept s

/-- SETTER PARAMETERS (R162). -/
def setterParameters (body : List Byte) (s : State) : Answer :=
  match body with
  | [channel, k, dc, ds, f1, f2, dz, dl, s1, s2] =>
    let p : SetterParams := { k := k.toNat, dc := dc.toNat, ds := ds.toNat, df := ofBE16 f1 f2, dz := dz.toNat,
                              dl := dl.toNat, stall := ofBE16 s1 s2 }
    match chanOf channel with
    | some ch => if p.inRange then doneWith [] (s.modChan ch fun c => { c with params := p }) else refused .badArgument s
    | none => refused .badArgument s
  | _ => refused .badArgument s

def execSetterParameters (s : State) : Host.Outcome State Fault Refusal := takeOrder 0x35 setterParameters s

end Sys2Proof.Machine
end

