-- ==== Sys2Proof/Machine/StoryOrders.lean ====
section
/-! DEFINITION. The orders on stories, the directory and routing, and FIT (R29, R31 to R36, R150, R182 to R185, R190). -/

namespace Sys2Proof.Machine

/-- The most bytes a reply's own fields may take: a body of 1,024 bytes less the result and the flags (R177, R188; log 31). -/
def replyRoom : Nat := 1022

/-! ## Text and records -/

/-- The fields of STORY CREATE after its slug (R182). -/
def createFields (slug rest : List Byte) : Option (FormatNo × BasketNo × Prio) :=
  match rest with
  | [format, basket, prio] =>
    match formatOf format, deskOf basket, prioOf prio with
    | some f, some b, some p => if validName 16 slug then some (f, b, p) else none
    | _, _, _ => none
  | _ => none

/-- STORY CREATE (R182). -/
def storyCreate (body : List Byte) (s : State) : Answer :=
  match takeText body with
  | none => refused .badArgument s
  | some (slug, rest) =>
    match createFields slug rest with
    | none => refused .badArgument s
    | some (f, b, p) =>
      match s.takeRecord with
      | (none, s) => refused .directoryFull s
      | (some sid, s) =>
        let s := (s.createStory sid (Story.new slug p .order b (.opn b) f)).enterBasket b sid none
        doneWith (keyBytes (s.keyOf sid)) s

def execStoryCreate (s : State) : Host.Outcome State Fault Refusal := takeOrder 0x10 storyCreate s

/-- The cause STORY APPEND carries when the store refuses (R190). -/
def Cause.byte : Cause → Byte
  | .sizeLimit => 0
  | .noSpace => 1

/-- STORY APPEND's work on an OPEN story (R183). -/
def appendTo (sid : Sid) (st : Story) (cells : List Cell) (s : State) : Answer :=
  match s.appendCells .order sid cells with
  | (some cause, s) => { res := .storeFull, body := [cause.byte], state := s }
  | (none, s) =>
    let s := if cells.isEmpty then s else s.reviewersFollow sid st.count 0 cells.length
    doneWith (keyBytes (s.keyOf sid) ++ be16 ((s.story? sid).elim 0 Story.count)) s

/-- STORY APPEND (R183). -/
def storyAppend (body : List Byte) (s : State) : Answer :=
  match body with
  | n1 :: n2 :: gen :: c1 :: c2 :: rest =>
    let count := ofBE16 c1 c2
    if count = 0 ∨ 512 < count then refused .badArgument s
    else
      match parseCells count rest with
      | none => refused .badArgument s
      | some cells =>
        withKey n1 n2 gen s fun sid st =>
          match st.place.notOpen with
          | some r => refused r s
          | none => appendTo sid st cells s
  | _ => refused .badArgument s

def execStoryAppend (s : State) : Host.Outcome State Fault Refusal := takeOrder 0x11 storyAppend s

/-- STORY READ (R184). -/
def storyRead (body : List Byte) (s : State) : Answer :=
  match body with
  | [n1, n2, gen, o1, o2, c1, c2] =>
    let count := ofBE16 c1 c2
    if count = 0 ∨ 512 < count then refused .badArgument s
    else
      withKey n1 n2 gen s fun sid st =>
        let cells := cellsThatFit (replyRoom - 9) (((s.text sid).drop (ofBE16 o1 o2)).take count)
        doneWith (keyBytes (s.keyOf sid) ++ be16 st.count ++ [o1, o2] ++ be16 cells.length ++ cells.flatMap Cell.encoded) s
  | _ => refused .badArgument s

def execStoryRead (s : State) : Host.Outcome State Fault Refusal := takeOrder 0x12 storyRead s

/-- A story's state as a byte (R189). -/
def Place.byte : Place → Byte
  | .intake => 1
  | .opn _ => 2
  | .held _ => 3
  | .queued .. => 4
  | .setting .. => 5
  | .killed => 6

def Place.holder? : Place → Option LineNo
  | .held l => some l
  | _ => none

def Place.job? : Place → Option (Chan × Nat)
  | .queued ch n | .setting ch n => some (ch, n)
  | _ => none

/-- The kind of an origin, as a number. -/
def Origin.kind : Origin → Nat
  | .terminal _ => 0
  | .wire .. => 1
  | .order => 2

/-- The parts of an origin, each by its encoding of R189. -/
def Origin.parts : Origin → List Byte
  | .terminal l => [lineByte l]
  | .wire l service item => [lineByte l, service] ++ be16 item
  | .order => []

/-- A story's origin in STORY INFO: its parts, with the open bytes that tell its kind (R189; log 21). -/
def Origin.bytes (o : Origin) : List Byte :=
  Config.storyInfoOriginKind o.kind ++ o.parts ++ Config.storyInfoOriginRest o.kind

/-- A list in STORY INFO: its entries in order, with open framing (log 21). -/
def storyInfoList (which : Nat) (entries : List (List Byte)) : List Byte :=
  Config.storyInfoListHead which entries.length ++ entries.flatten ++ Config.storyInfoListTail which entries.length

/-- A move of a route history in STORY INFO: the two baskets and the mover's line (R14, R189). DEDUCED (log 21): R189 lists no
code for the mover ORDER; it is given as the line that is none in a reply, 0xFF. -/
def Move.bytes (m : Move) : List Byte := [byte8 m.source.val, byte8 m.target.val, m.mover.elim 0xFF lineByte]

/-- A depth in STORY INFO (R14, R190). DEDUCED (log 21): each of its numbers takes the 2 bytes it takes in FIT_DONE (R191),
and the stale flag is a yes/no flag. -/
def Depth.bytes (d : Depth) : List Byte :=
  be16 d.halfPoints ++ be16 d.lines ++ [flagByte d.stale] ++ be16 d.loose ++ be16 d.overlong ++ be16 d.missing

/-- The STORY INFO reply body: every field of R14 in its table's order, the route history newest first
(R185, R190; log 21). DEDUCED (log 21): the flags TRUNCATED and OVERSET are two yes/no bytes. DESIGN CHOICE (log 58): the fields
that take a presence byte are the depth, the one that R14 marks Optional, and current basket, holder and job reference, which
R14 gives in some states only. -/
def State.storyInfoBody (s : State) (sid : Sid) (st : Story) : List Byte :=
  keyBytes (s.keyOf sid) ++ [st.place.byte] ++ textBytes st.slug ++ [st.prio.byte] ++ st.origin.bytes ++ [byte8 st.home.val] ++
    optional 1 (st.place.basket?.map fun b => [byte8 b.val]) ++ optional 1 (st.place.holder?.map fun l => [lineByte l]) ++
    storyInfoList 0 (st.reviewers.map fun l => [lineByte l]) ++ optional 3 (st.place.job?.map fun j => jobBytes j.1 j.2) ++
    [byte8 st.format.val] ++ textBytes s.formats[st.format].name ++ Config.storyInfoChain st.chain ++ be16 st.count ++
    be16 st.chain.length ++ optional 11 (st.depth.map Depth.bytes) ++ [byte8 st.setCount] ++
    storyInfoList 1 (st.route.map Move.bytes) ++ [flagByte st.truncated, flagByte st.overset]

/-- STORY INFO (R185). -/
def storyInfo (body : List Byte) (s : State) : Answer :=
  match body with
  | [n1, n2, gen] => withKey n1 n2 gen s fun sid st => doneWith (s.storyInfoBody sid st) s
  | _ => refused .badArgument s

def execStoryInfo (s : State) : Host.Outcome State Fault Refusal := takeOrder 0x13 storyInfo s

/-! ## Directory and routing -/

/-- The depth fields of a DIRECTORY entry: depth, line count and status (R36, R190). -/
def depthEntry : Option Depth → List Byte
  | none => absent 4 ++ [2]
  | some d => be16 d.halfPoints ++ be16 d.lines ++ [flagByte d.stale]

/-- An entry of a DIRECTORY reply (R36, R190). -/
def State.directoryEntry (s : State) (sid : Sid) : List Byte :=
  match s.story? sid with
  | none => []
  | some st =>
    keyBytes (s.keyOf sid) ++ textBytes st.slug ++ [st.prio.byte, st.place.byte] ++ be16 st.count ++ depthEntry st.depth ++
      [byte8 st.route.length, byte8 st.reviewers.length]

/-- The entries from the front that fit in `room` bytes (R36). -/
def entriesThatFit : Nat → List (List Byte) → List (List Byte)
  | _, [] => []
  | room, e :: es => if e.length ≤ room then e :: entriesThatFit (room - e.length) es else []

/-- DIRECTORY (R36). -/
def directory (body : List Byte) (s : State) : Answer :=
  match body with
  | [basket, s1, s2, count] =>
    match basketOf basket with
    | none => refused .badArgument s
    | some b =>
      if count = 0 ∨ 64 < count.toNat then refused .badArgument s
      else
        let name := textBytes s.baskets[b].name
        let wanted := ((s.stories b).drop (ofBE16 s1 s2)).take count.toNat
        let entries := entriesThatFit (replyRoom - name.length - 3) (wanted.map s.directoryEntry)
        doneWith (name ++ be16 (s.stories b).length ++ [byte8 entries.length] ++ entries.flatten) s
  | _ => refused .badArgument s

def execDirectory (s : State) : Host.Outcome State Fault Refusal := takeOrder 0x14 directory s

/-- A move of an OPEN story by order (R31). -/
def State.moveOpen (sid : Sid) (source target : BasketNo) (s : State) : State :=
  ((s.exitBasket sid).modStory sid (Story.sendTo source target none)).enterBasket target sid none

/-- The session of a holder whose story is taken (R32, R108). -/
def Session.takenByDesk (ss : Session) : Session :=
  (if ss.state = .edit then ss.toDirectory else ss).say (ascii "TAKEN BY DESK")

/-- A force move of a HELD story (R32). -/
def State.forceMove (sid : Sid) (holder : LineNo) (home target : BasketNo) (s : State) : State :=
  let s := (s.modSession holder Session.takenByDesk).dropReviewers sid (ascii "TAKEN BY DESK")
  (s.modStory sid (Story.sendTo home target none)).enterBasket target sid none

/-- MOVE (R31): the key, then the target and the flag, then the story's state (log 18). -/
def moveOrder (body : List Byte) (s : State) : Answer :=
  match body with
  | [n1, n2, gen, basket, force] =>
    withKey n1 n2 gen s fun sid st =>
      match deskOf basket, parseFlag force with
      | some target, some f =>
        match st.place with
        | .opn b => doneWith [] (if target = b then s else s.moveOpen sid b target)
        | .held l => if f then doneWith [] (s.forceMove sid l st.home target) else refused .storyHeld s
        | .intake => refused .storyHeld s
        | .queued .. | .setting .. => refused .storyInSet s
        | .killed => refused .storyKilled s
      | _, _ => refused .badArgument s
  | _ => refused .badArgument s

def execMove (s : State) : Host.Outcome State Fault Refusal := takeOrder 0x15 moveOrder s

/-- A priority change of a story that stands in a basket other than SPIKE (R29). -/
def State.changeBand (b : BasketNo) (sid : Sid) (old new : Prio) (s : State) : State :=
  let was := (s.stories b).findIdx (· == sid)
  let s := (s.setStories b ((s.stories b).filter (· != sid))).modStory sid fun st => { st with prio := new }
  let s := s.placeIn b sid
  let s := if old.rank < new.rank then s.raiseAlert b sid none else s
  s.markBasket b (Nat.min was ((s.stories b).findIdx (· == sid)))

/-- PRIORITY (R29). -/
def priorityOrder (body : List Byte) (s : State) : Answer :=
  match body with
  | [n1, n2, gen, prio] =>
    withKey n1 n2 gen s fun sid st =>
      match prioOf prio with
      | none => refused .badArgument s
      | some p =>
        match st.place with
        | .intake => refused .storyHeld s
        | .opn b => doneWith [] (if p = st.prio then s else s.changeBand b sid st.prio p)
        | .held _ | .queued .. | .setting .. | .killed => doneWith [] (s.modStory sid fun st => { st with prio := p })
  | _ => refused .badArgument s

def execPriority (s : State) : Host.Outcome State Fault Refusal := takeOrder 0x16 priorityOrder s

/-- KILL (R33). -/
def killOrder (body : List Byte) (s : State) : Answer :=
  match body with
  | [n1, n2, gen] =>
    withKey n1 n2 gen s fun sid st =>
      match st.place.notOpen with
      | some r => refused r s
      | none => doneWith [] ((s.spikeStory sid).offer (.storyKilled (s.keyOf sid)))
  | _ => refused .badArgument s

def execKill (s : State) : Host.Outcome State Fault Refusal := takeOrder 0x17 killOrder s

/-- The refusal of UNKILL and PURGE for a story that is not KILLED (R34, R35). -/
def Place.notKilled : Place → Option Res
  | .killed => none
  | .held _ | .intake => some .storyHeld
  | .queued .. | .setting .. => some .storyInSet
  | .opn _ => some .badArgument

/-- UNKILL (R34). -/
def unkillOrder (body : List Byte) (s : State) : Answer :=
  match body with
  | [n1, n2, gen] =>
    withKey n1 n2 gen s fun sid st =>
      match st.place.notKilled with
      | some r => refused r s
      | none => doneWith [] ((s.exitBasket sid).enterBasket st.home sid none)
  | _ => refused .badArgument s

def execUnkill (s : State) : Host.Outcome State Fault Refusal := takeOrder 0x18 unkillOrder s

/-- PURGE (R35). -/
def purgeOrder (body : List Byte) (s : State) : Answer :=
  match body with
  | [all, n1, n2, gen] =>
    match parseFlag all with
    | none => refused .badArgument s
    | some true =>
      let spiked := s.stories spikeBasket
      doneWith (be16 spiked.length) (spiked.foldl (fun s sid => s.purgeStory sid) s)
    | some false =>
      withKey n1 n2 gen s fun sid st =>
        match st.place.notKilled with
        | some r => refused r s
        | none => doneWith (be16 1) (s.purgeStory sid)
  | _ => refused .badArgument s

def execPurge (s : State) : Host.Outcome State Fault Refusal := takeOrder 0x19 purgeOrder s

/-! ## FIT (R150) -/

/-- FIT (R150). -/
def fitOrder (body : List Byte) (s : State) : Answer :=
  match body with
  | [n1, n2, gen] =>
    withKey n1 n2 gen s fun sid st =>
      match st.place with
      | .intake => refused .storyHeld s
      | .killed => refused .storyKilled s
      | .opn _ | .held _ | .queued .. | .setting .. =>
        match s.requestFit sid with
        | some s => { res := .taken, body := [], state := s }
        | none => refused .queueFull s
  | _ => refused .badArgument s

def execFit (s : State) : Host.Outcome State Fault Refusal := takeOrder 0x20 fitOrder s

end Sys2Proof.Machine
end

