-- ==== Sys2Proof/Machine/Dispatch.lean ====
section
/-! DEFINITION. The meaning of every command: one arm for each constructor of Instr, each one direct call. -/

namespace Sys2Proof.Machine

/-- The effect of a command on everything but the queue of waiting commands. -/
def exec (i : Instr) (s : State) : Host.Outcome State Fault Refusal :=
  match i with
  | .powerStart => Sys2Proof.Machine.execPowerStart s
  | .imageLoadDone => Sys2Proof.Machine.execImageLoadDone s
  | .inboundByte b => Sys2Proof.Machine.execInboundByte b s
  | .gapExpiry => Sys2Proof.Machine.execGapExpiry s
  | .outboundAck => Sys2Proof.Machine.execOutboundAck s
  | .directionChange => Sys2Proof.Machine.execDirectionChange s
  | .unknownOrder => Sys2Proof.Machine.execUnknownOrder s
  | .status => Sys2Proof.Machine.execStatus s
  | .lineRole => Sys2Proof.Machine.execLineRole s
  | .lineSet => Sys2Proof.Machine.execLineSet s
  | .lineReset => Sys2Proof.Machine.execLineReset s
  | .lineStatus => Sys2Proof.Machine.execLineStatus s
  | .lineTest => Sys2Proof.Machine.execLineTest s
  | .signOn => Sys2Proof.Machine.execSignOn s
  | .signOff => Sys2Proof.Machine.execSignOff s
  | .terminalMessage => Sys2Proof.Machine.execTerminalMessage s
  | .displayMode => Sys2Proof.Machine.execDisplayMode s
  | .storyCreate => Sys2Proof.Machine.execStoryCreate s
  | .storyAppend => Sys2Proof.Machine.execStoryAppend s
  | .storyRead => Sys2Proof.Machine.execStoryRead s
  | .storyInfo => Sys2Proof.Machine.execStoryInfo s
  | .directory => Sys2Proof.Machine.execDirectory s
  | .move => Sys2Proof.Machine.execMove s
  | .priority => Sys2Proof.Machine.execPriority s
  | .kill => Sys2Proof.Machine.execKill s
  | .unkill => Sys2Proof.Machine.execUnkill s
  | .purge => Sys2Proof.Machine.execPurge s
  | .fit => Sys2Proof.Machine.execFit s
  | .setStory => Sys2Proof.Machine.execSetStory s
  | .setPage => Sys2Proof.Machine.execSetPage s
  | .withdraw => Sys2Proof.Machine.execWithdraw s
  | .cancel => Sys2Proof.Machine.execCancel s
  | .formatLoad => Sys2Proof.Machine.execFormatLoad s
  | .widthLoad => Sys2Proof.Machine.execWidthLoad s
  | .basketName => Sys2Proof.Machine.execBasketName s
  | .profileLoad => Sys2Proof.Machine.execProfileLoad s
  | .wireAccept => Sys2Proof.Machine.execWireAccept s
  | .setterParameters => Sys2Proof.Machine.execSetterParameters s
  | .imageRead => Sys2Proof.Machine.execImageRead s
  | .imageReadDone => Sys2Proof.Machine.execImageReadDone s
  | .imageWrite => Sys2Proof.Machine.execImageWrite s
  | .imageWriteDone => Sys2Proof.Machine.execImageWriteDone s
  | .restart => Sys2Proof.Machine.execRestart s
  | .restartEvent => Sys2Proof.Machine.execRestartEvent s
  | .characterReceived line data parityBit stopBit => Sys2Proof.Machine.execCharacterReceived line data parityBit stopBit s
  | .breakDetected line => Sys2Proof.Machine.execBreakDetected line s
  | .idleTimerExpiry line => Sys2Proof.Machine.execIdleTimerExpiry line s
  | .txFrameEnd line => Sys2Proof.Machine.execTxFrameEnd line s
  | .blankTimerExpiry line => Sys2Proof.Machine.execBlankTimerExpiry line s
  | .blinkTimerExpiry line => Sys2Proof.Machine.execBlinkTimerExpiry line s
  | .textKey line => Sys2Proof.Machine.execTextKey line s
  | .unknownKey line => Sys2Proof.Machine.execUnknownKey line s
  | .keyLeft line => Sys2Proof.Machine.execKeyLeft line s
  | .keyRight line => Sys2Proof.Machine.execKeyRight line s
  | .keyWordLeft line => Sys2Proof.Machine.execKeyWordLeft line s
  | .keyWordRight line => Sys2Proof.Machine.execKeyWordRight line s
  | .keyLineStart line => Sys2Proof.Machine.execKeyLineStart line s
  | .keyLineEnd line => Sys2Proof.Machine.execKeyLineEnd line s
  | .keyUp line => Sys2Proof.Machine.execKeyUp line s
  | .keyDown line => Sys2Proof.Machine.execKeyDown line s
  | .keyPageFwd line => Sys2Proof.Machine.execKeyPageFwd line s
  | .keyPageBack line => Sys2Proof.Machine.execKeyPageBack line s
  | .keyDelChar line => Sys2Proof.Machine.execKeyDelChar line s
  | .keyDelWord line => Sys2Proof.Machine.execKeyDelWord line s
  | .keyInsertToggle line => Sys2Proof.Machine.execKeyInsertToggle line s
  | .keyMark line => Sys2Proof.Machine.execKeyMark line s
  | .keyNew line => Sys2Proof.Machine.execKeyNew line s
  | .keyFetch line => Sys2Proof.Machine.execKeyFetch line s
  | .keyReview line => Sys2Proof.Machine.execKeyReview line s
  | .keyRelease line => Sys2Proof.Machine.execKeyRelease line s
  | .keySend line => Sys2Proof.Machine.execKeySend line s
  | .keyKill line => Sys2Proof.Machine.execKeyKill line s
  | .keySet line => Sys2Proof.Machine.execKeySet line s
  | .keyFit line => Sys2Proof.Machine.execKeyFit line s
  | .keyPriority line => Sys2Proof.Machine.execKeyPriority line s
  | .keyNextBasket line => Sys2Proof.Machine.execKeyNextBasket line s
  | .keyPrevBasket line => Sys2Proof.Machine.execKeyPrevBasket line s
  | .keyAck line => Sys2Proof.Machine.execKeyAck line s
  | .keyOff line => Sys2Proof.Machine.execKeyOff line s
  | .wireStartByte line => Sys2Proof.Machine.execWireStartByte line s
  | .wireEndByte line => Sys2Proof.Machine.execWireEndByte line s
  | .intakeCharacter line => Sys2Proof.Machine.execIntakeCharacter line s
  | .intakeBreak line => Sys2Proof.Machine.execIntakeBreak line s
  | .intakeIdle line => Sys2Proof.Machine.execIntakeIdle line s
  | .ready ch => Sys2Proof.Machine.execReady ch s
  | .notReady ch => Sys2Proof.Machine.execNotReady ch s
  | .fault ch => Sys2Proof.Machine.execFault ch s
  | .dwellExpiry ch => Sys2Proof.Machine.execDwellExpiry ch s
  | .stagingDone ch => Sys2Proof.Machine.execStagingDone ch s
  | .stallTimerExpiry ch => Sys2Proof.Machine.execStallTimerExpiry ch s
  | .fitComplete => Sys2Proof.Machine.execFitComplete s
  | .lineSampledMarking line => Sys2Proof.Machine.execLineSampledMarking line s
  | .startBitSampled line => Sys2Proof.Machine.execStartBitSampled line s
  | .falseStart line => Sys2Proof.Machine.execFalseStart line s

end Sys2Proof.Machine
end

