-- ==== Sys2Proof/Safety.lean ====
section
/-! DEFINITION. What a safe run of the 612 is, and the vocabulary of the statements: what an event reaches, what a reply
and a queued notice are, what an event leaves alone, and the invariants every step keeps. -/

namespace Sys2Proof

/-- An outcome is a next state. -/
def ranOn {σ φ ρ : Type} (o : Host.Outcome σ φ ρ) : Prop := ∃ t, o = .next t

/-- No step from a state of the machine stops (log 1). -/
def SafeStep (s : Machine.State) : Prop := ranOn (Machine.step s)

namespace Machine

/-! ## The end of every event

At the end of an event each session's screen image follows the state, bytes that may leave are put in empty holding slots
and the idle host stream takes its next frame (R56, R71, R76, R77, R180). The `core` of a state is all of it but what that
alone may change: the marks and codes of screen sending, the bytes on their way out of each line, the outbound frame with
the notice queue (stated apart, by `portOut`), and the model's count of free values. -/

/-- A session but for its screen image, its dirty rows, codes and bell on their way out, and the place of its view. -/
def Session.core (ss : Session) : Session :=
  { ss with
    modePending := none, bell := false, image := Vector.replicate 24 Row.blank, dirty := Vector.replicate 24 false,
    flight := none, codeOut := none, cursorPending := false, cursorAt := (0, 0),
    view := ss.view.map fun v => { v with top := 0, highlight := 0 } }

/-- A line but for its transmitter and what `Session.core` leaves out. -/
def LineRec.core (r : LineRec) : LineRec :=
  { r with owner := r.owner.mapSession Session.core, holding := none, shift := none, test := [] }

/-- A state but for what the end of an event may change of itself. -/
def State.core (s : State) : State :=
  { s with
    lines := s.lines.map LineRec.core
    host := { s.host with out := none, notices := [] }
    freeCount := 0 }

/-- The host channel at the end of an event: it sends nothing while the image is read (R176), and otherwise an idle stream
takes its next frame (R180). -/
def State.portOut (s : State) : HostChan := if s.loader.loading then s.host else s.host.pump

/-- The event runs on, and leaves the machine as `e` says, with the end of the event done. -/
def Reaches (o : Host.Outcome State Fault Refusal) (e : State) : Prop :=
  ∃ t, o = .next t ∧ t.core = e.core ∧ t.host = e.portOut

/-- The event runs on, leaves the machine as `e` says with the end of the event done, and ends in a state of which `P` holds
besides. -/
def ReachesWith (o : Host.Outcome State Fault Refusal) (e : State) (P : State → Prop) : Prop :=
  ∃ t, o = .next t ∧ t.core = e.core ∧ t.host = e.portOut ∧ P t

/-- The event runs on, to a state of which `P` holds. -/
def RunsTo (o : Host.Outcome State Fault Refusal) (P : State → Prop) : Prop := ∃ t, o = .next t ∧ P t

/-- The bell of a line's session has been asked for in the event (R64, R77, R89): it pends, or, where the holding slot was
empty, the end of the event may have placed it. -/
structure Rings (s t : State) (l : LineNo) : Prop where
  busy : s.lines[l].holding.isSome = true → ∃ ss, t.session? l = some ss ∧ ss.bell = true
  empty : s.lines[l].holding = none → (∃ ss, t.session? l = some ss ∧ ss.bell = true) ∨ t.lines[l].holding = some 0x07 ∨
    (s.lines[l].shift = none ∧ t.lines[l].shift = some { byte := 0x07, settings := s.lines[l].settings })

/-- The event reaches what `e` says, with the bell of the line's session rung. -/
def ReachesRinging (o : Host.Outcome State Fault Refusal) (e s : State) (l : LineNo) : Prop :=
  ReachesWith o e fun t => Rings s t l

/-- The session on a line has this view (R74, R75). -/
def ShowsView (t : State) (l : LineNo) (v : View) : Prop := ∃ ss, t.session? l = some ss ∧ ss.view = some v

/-- A row stands in the dirty set of the session on a line (R76). -/
def RowDirty (t : State) (l : LineNo) (r : Fin 24) : Prop := ∃ ss, t.session? l = some ss ∧ ss.dirty[r] = true

/-- A mode code pends at the session on a line, or is on its way out (R77, R80). -/
def ModePends (t : State) (l : LineNo) (m : ModeCode) : Prop := ∃ ss, t.session? l = some ss ∧ ss.modePending = some m

/-- The cursor pends at the session on a line (R77). -/
def CursorPends (t : State) (l : LineNo) : Prop := ∃ ss, t.session? l = some ss ∧ ss.cursorPending = true

/-- Every row of the session on a line is marked, and the row in flight has its changed flag set; the flag is told where the
holding slot is taken, since with an empty one the end of the event goes on with the row or ends it (R76, R79). -/
structure RowsMarked (s t : State) (l : LineNo) : Prop where
  rows : ∀ r, RowDirty t l r
  flight : ∀ ss x, s.session? l = some ss → ss.flight = some x → s.lines[l].holding.isSome = true →
    ∃ ss', t.session? l = some ss' ∧ ss'.flight = some { x with changed := true }

/-- The screen of the session on a line is to be sent anew under a mode code: every row is marked, and the mode code and the
cursor pend (R79, R82). -/
structure ScreenAnew (s t : State) (l : LineNo) (m : ModeCode) : Prop where
  marked : RowsMarked s t l
  mode : ModePends t l m
  cursor : CursorPends t l

/-! ## Orders -/

/-- The order at the front is the frame `f`, of this kind, with a legal tag, and may be taken (R178, R179). -/
structure Front (s : State) (kind : Byte) (f : Frame) : Prop where
  next : s.nextOrder = some f
  kind : f.kind = kind
  tag : f.tag ≠ 0

/-- An order answered: its reply stands in the reply slot and carries the overflow flag, its buffer is FREE, and a byte the
host has waiting is taken (R178, R179). -/
def State.answered (f : Frame) (r : Res) (body : List Byte) (s : State) : State :=
  { s with host := { s.host.releaseBuf with reply := some (replyFrame s.host.overflow f r body), active := none } }.takeWaiting

/-- The reply to `f` stands in the reply slot and no order is being acted on (R179). -/
def Replied (s t : State) (f : Frame) (r : Res) (body : List Byte) : Prop :=
  ∃ overflow, t.host.reply = some (replyFrame overflow f r body) ∧ (s.host.overflow = true → overflow = true) ∧
    t.host.active = none

/-- A body of an order of this kind that begins, or for PURGE goes on after a clear all flag, with a story key, and passes
every check its rule makes before the key check of R18 (R29, R31, R33 to R35, R150, R159, R183 to R185; log 18). -/
def KeyBody (kind n1 n2 gen : Byte) (body : List Byte) : Prop :=
  (kind ∈ [0x13, 0x17, 0x18, 0x20] ∧ body = [n1, n2, gen]) ∨
  (kind = 0x11 ∧ ∃ c1 c2 rest cells, body = n1 :: n2 :: gen :: c1 :: c2 :: rest ∧ 1 ≤ ofBE16 c1 c2 ∧ ofBE16 c1 c2 ≤ 512 ∧
    parseCells (ofBE16 c1 c2) rest = some cells) ∨
  (kind = 0x12 ∧ ∃ o1 o2 c1 c2, body = [n1, n2, gen, o1, o2, c1, c2] ∧ 1 ≤ ofBE16 c1 c2 ∧ ofBE16 c1 c2 ≤ 512) ∨
  (kind = 0x15 ∧ ∃ basket force, body = [n1, n2, gen, basket, force]) ∨
  (kind = 0x16 ∧ ∃ prio, body = [n1, n2, gen, prio]) ∨
  (kind = 0x19 ∧ body = [0, n1, n2, gen]) ∨
  (kind = 0x21 ∧ ∃ channel rush after, body = [n1, n2, gen, channel, rush, after] ∧ channel.toNat ≤ 1 ∧ rush.toNat ≤ 1 ∧
    (after = 0xFF ∨ after.toNat ≤ 22))

/-- A segment's bytes in SET PAGE (R190). -/
def Segment.bytes (g : Segment) : List Byte :=
  keyBytes g.key ++ be16 g.measure ++ be16 g.depth ++ be16 g.column ++ be16 g.top

/-- A segment whose fields the bytes of SET PAGE can carry (R158, R189). -/
structure Segment.Fits (g : Segment) : Prop where
  gen : g.key.gen ≤ 255
  measure : g.measure ≤ 65535
  depth : g.depth ≤ 65535
  column : g.column ≤ 65535
  top : g.top ≤ 65535

/-- A segment's measure override is legal (R158). -/
def Segment.MeasureLegal (g : Segment) : Prop := g.measure = 0 ∨ (72 ≤ g.measure ∧ g.measure ≤ 360)

/-- A segment's key names a live story that is OPEN (R18, R160). -/
def Segment.IsOpen (s : State) (g : Segment) : Prop := ∃ st b, s.live? g.key = some st ∧ st.place = .opn b

/-- No two segments name one story (R160). -/
def StoriesApart (segs : List Segment) : Prop := (segs.map fun g => g.key.sid).Nodup

/-- Every order with its kind code (R190). -/
def orderRows : List (Instr × Byte) :=
  [(.status, 0x01), (.lineRole, 0x02), (.lineSet, 0x03), (.lineReset, 0x04), (.lineStatus, 0x05), (.lineTest, 0x06),
   (.signOn, 0x07), (.signOff, 0x08), (.terminalMessage, 0x09), (.displayMode, 0x0A), (.storyCreate, 0x10),
   (.storyAppend, 0x11), (.storyRead, 0x12), (.storyInfo, 0x13), (.directory, 0x14), (.move, 0x15), (.priority, 0x16),
   (.kill, 0x17), (.unkill, 0x18), (.purge, 0x19), (.fit, 0x20), (.setStory, 0x21), (.setPage, 0x22), (.withdraw, 0x23),
   (.cancel, 0x24), (.formatLoad, 0x30), (.widthLoad, 0x31), (.basketName, 0x32), (.profileLoad, 0x33),
   (.wireAccept, 0x34), (.setterParameters, 0x35), (.imageRead, 0x40), (.imageWrite, 0x41), (.restart, 0x42)]

/-! ## Notices -/

/-- A notice stands in the queue, is on its way out as the outbound frame, or was dropped with the overflow flag set
(R180, R186). -/
def Told (t : State) (n : Notice) : Prop :=
  n ∈ t.host.notices ∨ (∃ overflow, t.host.out = some { rest := n.frame overflow, reply := false }) ∨ t.host.overflow = true

/-! ## What an event leaves alone -/

/-- Settings, the EEPROM, the image state and the commands waiting are unchanged. -/
structure SameSettings (s t : State) : Prop where
  profiles : t.profiles = s.profiles
  term : t.term = s.term
  formats : t.formats = s.formats
  widths : t.widths = s.widths
  eeprom : t.eeprom = s.eeprom
  loader : t.loader = s.loader
  pending : t.pending = s.pending
  names : ∀ b : BasketNo, t.baskets[b].name = s.baskets[b].name
  params : ∀ ch, (t.chan ch).params = (s.chan ch).params

/-- A line's settings, receiver, error counts and wire settings: all but its owner and its transmitter. -/
def LineRec.receiver (r : LineRec) : LineRec := { r with owner := .idle, holding := none, shift := none, test := [] }

/-- No line's role, settings or receiver changes. -/
structure SameLines (s t : State) : Prop where
  roles : ∀ l : LineNo, t.lines[l].owner.role = s.lines[l].owner.role
  receivers : ∀ l : LineNo, t.lines[l].receiver = s.lines[l].receiver

/-- No channel changes. -/
structure SameChannels (s t : State) : Prop where
  a : t.chanA = s.chanA
  b : t.chanB = s.chanB

/-- Every record is unchanged but that of the story named. -/
def SameRecords (s t : State) (sid : Sid) : Prop := ∀ x : Sid, x ≠ sid → t.dir[x] = s.dir[x]

/-- Every basket's list is unchanged but those named. -/
def SameBaskets (s t : State) (but : List BasketNo) : Prop := ∀ b : BasketNo, b ∉ but → t.stories b = s.stories b

/-- The session on a line, but for what the end of an event may change. -/
def State.sessionCore (s : State) (l : LineNo) : Option Session := (s.session? l).map Session.core

/-- A session has signed off (R68): it is DARK with nothing of its work left; the story it held is OPEN at its home, with no
entry in its route history; it reviews no story; TERMINAL_SIGN is queued; and nothing else changes. -/
structure SignedOff (s t : State) (l : LineNo) (ss : Session) (cause : SignCause) : Prop where
  session : t.sessionCore l = some (Session.core
    { ss with
      state := .dark, profile := none, code := [], mode := if ss.mode = .test then .normal else ss.mode, fifo := [],
      discardNext := false, alert := none, blinkOn := true, blinkTimer := none, message := none, view := none, edit := none })
  held : ∀ sid, s.heldBy l = some sid → ∃ st st', s.story? sid = some st ∧ t.story? sid = some st' ∧
    st'.place = .opn st.home ∧ st'.route = st.route ∧ sid ∈ t.stories st.home
  review : ∀ e st', ss.state = .review → ss.edit = some e → t.story? e.key.sid = some st' → l ∉ st'.reviewers
  records : ∀ sid : Sid, s.heldBy l ≠ some sid → (∀ e, ss.state = .review → ss.edit = some e → e.key.sid ≠ sid) →
    t.dir[sid] = s.dir[sid]
  told : Told t (.terminalSign l none cause)
  settings : SameSettings s t
  lines : SameLines s t
  channels : SameChannels s t
  store : t.store = s.store
  fit : t.fitQueue = s.fitQueue

/-- A chain names each of its blocks once, and each of them is a chained block of the store (R3). -/
def ChainForm (s : State) (sid : Sid) : Prop := (s.chainOf sid).Nodup ∧ ∀ b ∈ s.chainOf sid, b ∈ s.store.map Prod.fst

/-- Every chained block outside the story's chain holds the cells it held. -/
def OtherBlocksKept (s t : State) (sid : Sid) : Prop :=
  ∀ b ∈ s.store.map Prod.fst, b ∉ s.chainOf sid → blockCells t.store b = blockCells s.store b

/-- A basket's list with the story at the tail of its priority band (R26, R27). -/
def bandedIn (t : State) (sid : Sid) (l : List Sid) : List Sid := bandInsert (fun x => (t.prio x).rank) sid l

/-- A text change to a story has spoiled the fit of its active entry, and every other entry is as it was, a waiting one of the
story too (R152). -/
def Spoils (s t : State) (sid : Sid) : Prop :=
  t.fitQueue = s.fitQueue.map fun e =>
    if e.key.sid = sid then { e with active := e.active.map fun r => { r with spoiled := true } } else e

/-- The record of a story: its generation kept, and its fields. -/
def HasStory (s t : State) (sid : Sid) (st : Story) : Prop := t.dir[sid] = { gen := s.dir[sid].gen, story := some st }

/-- A body that names this live story by its key (R18). -/
structure Names (s : State) (n1 n2 gen : Byte) (sid : Sid) (st : Story) : Prop where
  number : ofBE16 n1 n2 = storyNumber sid
  live : s.dir[sid] = { gen := gen.toNat, story := some st }

/-- Everything but the store, the directory, the baskets, the sessions, the notices and the fit queue is unchanged. -/
structure SameElsewhere (s t : State) : Prop where
  settings : SameSettings s t
  lines : SameLines s t
  channels : SameChannels s t

/-- A running job has ended other than DONE (R174): its stories are OPEN at home with their records as they were, SET_DONE is
queued, it is off the queue, and the channel holds nothing of it. -/
structure JobLost (s t : State) (ch : Chan) (j : Job) (r : Run) (e : JobEnd) : Prop where
  stories : ∀ g ∈ j.segments, ∀ st, s.story? g.key.sid = some st →
    HasStory s t g.key.sid { st with place := .opn st.home } ∧ g.key.sid ∈ t.stories st.home
  records : ∀ sid : Sid, (∀ g ∈ j.segments, g.key.sid ≠ sid) → t.dir[sid] = s.dir[sid]
  queue : (t.chan ch).queue = (s.chan ch).queue.tail
  run : (t.chan ch).run = none
  staged : (t.chan ch).staged = none
  timer : (t.chan ch).stallTimer = none
  cancel : (t.chan ch).cancelPending = false
  other : ∀ other, other ≠ ch → t.chan other = s.chan other
  told : Told t (.setDone ch j e r.segs)
  store : t.store = s.store
  fit : t.fitQueue = s.fitQueue

/-- A running job has ended DONE (R173): each of its stories has the depth, set count and OVERSET flag of its own run and is
OPEN in the after-basket, or with none in its home; SET_DONE is queued; and nothing else of the directory changes. -/
structure JobDone (s t : State) (ch : Chan) (j : Job) (r : Run) : Prop where
  stories : ∀ (k : Nat) g x st, j.segments[k]? = some g → r.segs[k]? = some x → s.story? g.key.sid = some st →
    HasStory s t g.key.sid
      { st with
        depth := some { halfPoints := x.totals.depth, lines := x.totals.lines, stale := false, loose := x.totals.loose,
                        overlong := x.totals.overlong, missing := x.totals.missing }
        setCount := Nat.min 255 (st.setCount + 1), overset := decide (0 < x.oversetLines),
        place := .opn (j.after.getD st.home), home := j.after.getD st.home,
        route :=
          if st.home = j.after.getD st.home then st.route
          else ({ source := st.home, target := j.after.getD st.home, mover := j.queuer } :: st.route).take 4 } ∧
      g.key.sid ∈ t.stories (j.after.getD st.home)
  records : ∀ sid : Sid, (∀ g ∈ j.segments, g.key.sid ≠ sid) → t.dir[sid] = s.dir[sid]
  other : ∀ other, other ≠ ch → t.chan other = s.chan other
  told : Told t (.setDone ch j .done r.segs)
  store : t.store = s.store
  fit : t.fitQueue = s.fitQueue

/-- A code is on its way out of a line whose holding slot was empty (R56, R167): with the shift stage busy its first byte is
in the holding slot, and with it empty its first byte is being shifted out with the second behind it. `rest` has not yet
found its place. -/
structure CodePlaced (s t : State) (l : LineNo) (code : Code) (rest : List Byte) : Prop where
  busy : s.lines[l].shift.isSome = true → t.lines[l].holding = code.bytes.head? ∧ t.lines[l].shift = s.lines[l].shift ∧
    rest = code.bytes.drop 1
  empty : s.lines[l].shift = none → t.lines[l].holding = code.bytes[1]? ∧ rest = code.bytes.drop 2 ∧
    t.lines[l].shift =
      some { byte := s.lines[l].settings.sent (code.bytes.headD 0), settings := s.lines[l].settings }

/-- An event of `s` places the channel's next code on its line (R165, R167): it leaves the machine as `e` but for the channel,
which is `c` with the run `r` placing the code, and with the end of the event done. -/
def SendsCode (s e t : State) (ch : Chan) (l : LineNo) (code : Code) (c : Channel) (r : Run) : Prop :=
  ∃ rest, CodePlaced s t l code rest ∧ t.host = e.portOut ∧
    t.core = (e.setChan ch { c with run := some { r with phase := .placing code rest } }).core

/-- A channel whose job has ended DONE or ABORTED with no other to start (R173, R174): off the job, IDLE when the flow is READY
and OFFLINE with reason NOT_READY when it is not. -/
def Channel.freed (c : Channel) : Channel :=
  { c with
    state := if c.flow then .idle else .offline, reason := if c.flow then none else some .notReady, queue := c.queue.tail,
    run := none, staged := none, cancelPending := false, stallTimer := none }

/-- The channel has started the job `j` from the head of its queue, which was `j :: more` (R164): the job and the channel are
RUNNING under the copies made now, JOB START is on its way, and the job's stories outside `but` are SETTING with no reviewer. -/
structure JobStarted (s t : State) (ch : Chan) (j : Job) (more : List Job) (but : List Segment) : Prop where
  state : (t.chan ch).state = .running ∧ (t.chan ch).reason = none
  queue : (t.chan ch).queue = { j with running := true } :: more
  run : ∃ r rest, (t.chan ch).run = some r ∧ r.phase = .placing (.jobStart j.number) rest ∧ r.params = (s.chan ch).params ∧
    r.widths = s.widths ∧ r.formats.length = j.segments.length
  stories : ∀ g ∈ j.segments, (∀ h ∈ but, h.key.sid ≠ g.key.sid) → ∀ st, s.story? g.key.sid = some st →
    HasStory s t g.key.sid { st with place := .setting ch j.number, reviewers := [] }

/-- The running job of a channel waits for an event (R166, R167): a code dwells; or a code is due, and the channel does not run or
the job has no code to give until its next line is staged; or a code is on its way, with a byte in the holding slot of the
channel's line. -/
def State.jobAtRest (s : State) (ch : Chan) : Prop :=
  ∀ j r, (s.chan ch).job? = some j → (s.chan ch).run = some r →
    match r.phase with
    | .dwell .. => True
    | .due => (s.chan ch).state ≠ .running ∨ (s.chan ch).nextCode j r = none
    | .placing .. => ∀ l, s.boundLine ch = some l → s.lines[l].holding.isSome = true

/-- What a setter that takes these codes sets: each code that is no FONT or SIZE with the font and the size in force at it
(R165). -/
def setBy : Nat → Nat → List Code → List (Nat × Nat × Code)
  | _, _, [] => []
  | _, z, .font f :: codes => setBy f z codes
  | f, _, .size z :: codes => setBy f z codes
  | f, z, code :: codes => (f, z, code) :: setBy f z codes

/-! ## Keys -/

/-- The movement keys: each command with its key code and what it does (R92, R193). -/
def movementKeys : List ((Nat → Instr) × Byte × Movement) :=
  [(.keyLeft, 0x41, .left), (.keyRight, 0x42, .right), (.keyUp, 0x43, .up), (.keyDown, 0x44, .down),
   (.keyWordLeft, 0x45, .wordLeft), (.keyWordRight, 0x46, .wordRight), (.keyLineStart, 0x47, .lineStart),
   (.keyLineEnd, 0x48, .lineEnd), (.keyPageFwd, 0x49, .pageFwd), (.keyPageBack, 0x4A, .pageBack)]

/-- The function keys that an entry in progress is offered: every key of R193 but ACK and OFF, each with its key code (R64,
R97). -/
def entryKeys : List ((Nat → Instr) × Byte) :=
  movementKeys.map (fun row => (row.1, row.2.1)) ++
    [(.keyDelChar, 0x4B), (.keyDelWord, 0x4C), (.keyInsertToggle, 0x4D), (.keyMark, 0x4E), (.keyNew, 0x4F),
     (.keyFetch, 0x50), (.keyReview, 0x51), (.keyRelease, 0x52), (.keySend, 0x53), (.keyKill, 0x54), (.keySet, 0x55),
     (.keyFit, 0x56), (.keyPriority, 0x57), (.keyNextBasket, 0x58), (.keyPrevBasket, 0x59)]

/-- The letters that are a mark by themselves (R97). -/
def markLetters : List (Byte × Cell) := [(0x50, .para), (0x4C, .line), (0x48, .hard), (0x4B, .dhyph)]

/-- The letters that take digits: each with the most digits it takes, whether a word space may end them, and its mark for a
value (R97). -/
def valueLetters : List (Byte × Nat × Bool × (Nat → Option Cell)) :=
  [(0x46, 2, true, fun n => some (.font n)), (0x5A, 3, true, fun n => some (.size n)), (0x56, 3, true, fun n => some (.lead n)),
   (0x4D, 1, false, fun n => ([Mode.justify, .left, .right, .center][n - 1]?.filter fun _ => n != 0).map .mode),
   (0x58, 1, false, fun n => [Cell.en, .em, .thin][n - 1]?.filter fun _ => n != 0),
   (0x4E, 1, false, fun n => [Cell.noteOn, .noteOff][n - 1]?.filter fun _ => n != 0)]

/-- Where a window top comes to stand as it follows the cursor (R91): on the screen line that holds it, unless the cursor's line
lies before that, or 22 lines or more behind it. -/
def topFollowing (text : List Cell) (top cursor : Nat) : Nat :=
  let lines := screenLines text
  let row (offset : Nat) := lineIndex lines offset
  let start (i : Nat) := (lineAt lines i).start
  if row cursor < row top then start (row cursor)
  else if row top + 22 ≤ row cursor then start (row cursor - 21)
  else start (row top)

/-- Every session that reviews the story has followed a change which took `k` cells from offset `p` and put `n` there (R96): its
cursor and its window top stay with the text they stood at, the top brought to the start of its screen line and then to follow
the cursor; rows 0 and 23 are marked, and every row whose image changed. -/
def ReviewersFollow (s t : State) (sid : Sid) (p k n : Nat) : Prop :=
  let moved (offset : Nat) : Nat := if offset < p then offset else if offset < p + k then p else offset + n - k
  ∀ (m : LineNo) sm e, s.session? m = some sm → sm.state = .review → sm.edit = some e → e.key.sid = sid →
    ∃ sm', t.session? m = some sm' ∧ sm'.state = .review ∧
      sm'.edit = some
        { e with cursor := moved e.cursor, top := topFollowing (t.text sid) (moved e.top) (moved e.cursor) } ∧
      sm'.dirty[(0 : Fin 24)] = true ∧ sm'.dirty[(23 : Fin 24)] = true ∧
      ∀ r : Fin 24, sm'.image[r] ≠ sm.image[r] → sm'.dirty[r] = true

/-- The holder's screen after an insertion or a deletion (R96): rows 0 and 23 are marked, and every row from that of the first
screen line which changed to row 22; `top` is the window top before the change. -/
def HolderMarked (s t : State) (l : LineNo) (sid : Sid) (top : Nat) : Prop :=
  let old := screenLines (s.text sid)
  let new := screenLines (t.text sid)
  RowDirty t l 0 ∧ RowDirty t l 23 ∧
    ∀ (i : Nat) (r : Fin 24),
      (∀ k, k < i → (old.map ScreenLine.cells)[k]? = (new.map ScreenLine.cells)[k]?) →
      (old.map ScreenLine.cells)[i]? ≠ (new.map ScreenLine.cells)[i]? →
      1 ≤ r.val → i + 1 - lineIndex old top ≤ r.val → r.val ≤ 22 → RowDirty t l r

/-- Row 0 is marked on the story's holder and reviewers, whatever their sessions show, and on every session that shows it
(R72, R98, R157). -/
def ShownMarked (s t : State) (sid : Sid) : Prop :=
  ∀ m sm, s.session? m = some sm →
    (sm.shows sid = true ∨ ∃ st, s.story? sid = some st ∧ (st.place = .held m ∨ m ∈ st.reviewers)) → RowDirty t m 0

/-- The row that lists the story is marked on every DIRECTORY session that shows it (R98, R103, R157). -/
def ListedMarked (s t : State) (sid : Sid) : Prop :=
  ∀ m sm v i (r : Fin 24), s.session? m = some sm → sm.state = .directory → sm.view = some v →
    (s.viewOf v)[i]? = some sid → sid ∉ (s.viewOf v).take i → v.top ≤ i → i < v.top + 22 → r.val = i + 1 - v.top →
    RowDirty t m r

/-- A change of the held story's text by a key (R21, R93, R96, R152): the text is `new`, the count and the stale flag follow, an
active fit of the story is spoiled, the session has the edit state `e` with its window top following the cursor, and nothing else
changes. -/
structure TextChanged (s t : State) (l : LineNo) (ss : Session) (e : Edit) (st : Story) (new : List Cell) : Prop where
  text : t.text e.key.sid = new
  story : ∃ chain, HasStory s t e.key.sid
    { st with chain := chain, count := new.length, depth := st.depth.map fun d => { d with stale := true } }
  session : t.sessionCore l = some (Session.core { ss with edit := some { e with top := topFollowing new e.top e.cursor } })
  blocks : OtherBlocksKept s t e.key.sid
  records : SameRecords s t e.key.sid
  baskets : SameBaskets s t []
  fit : Spoils s t e.key.sid
  elsewhere : SameElsewhere s t

/-! ## Alerts -/

/-- A session that has taken an alert (R40, R84): the alert replaces the one before and any message; a FLASH one starts the
blinking of row 0 and wakes a blanked screen, and with an URGENT one nothing blinks. -/
def Session.withAlert (term : TermSettings) (a : Alert) (ss : Session) : Session :=
  let wakes : Prop := a.prio = .flash ∧ ss.mode = .blank
  { ss with
    alert := some a, message := none, blinkOn := true
    blinkTimer := if a.prio = .flash then some term.blinkOn else none
    mode := if wakes then .normal else ss.mode
    blankTimer := if wakes then (if term.blankTime = 0 then none else some term.blankTime) else ss.blankTimer }

/-- An alert has been offered to every session that is signed on under a profile watching its basket, but that of `mover`, the
line whose own key made the move (R40). A session takes it, and has its row 0 marked, unless its own has a higher priority; a
FLASH alert wakes a blanked screen, which is then sent anew in NORMAL (R82, R84); every other session is as it was, but for an
alert that named SPIKE, which no alert does (AlertForm). -/
structure AlertOffered (s t : State) (a : Alert) (mover : Option LineNo) : Prop where
  takes : ∀ l ss n, s.session? l = some ss → ss.state ≠ .dark → ss.profile = some n →
    inMask s.profiles[n].watch a.basket = true → mover ≠ some l →
    (∀ own, ss.alert = some own → own.prio.rank ≤ a.prio.rank) →
    t.sessionCore l = some (ss.withAlert s.term a).core ∧ RowDirty t l 0 ∧
      (a.prio = .flash → ss.mode = .blank → ScreenAnew s t l .normal)
  keeps : ∀ l ss, s.session? l = some ss → (∀ own, ss.alert = some own → own.basket ≠ spikeBasket) →
    ss.state = .dark ∨ (∀ n, ss.profile = some n → inMask s.profiles[n].watch a.basket = false) ∨ mover = some l ∨
      (∃ own, ss.alert = some own ∧ a.prio.rank < own.prio.rank) →
    t.sessionCore l = s.sessionCore l

/-- Every alert that names the story in the basket it left has cleared, with row 0 marked, and every other alert stands
(R41, R84). -/
structure AlertsCleared (s t : State) (b : BasketNo) (sid : Sid) : Prop where
  cleared : ∀ l ss a, s.session? l = some ss → ss.alert = some a → a.basket = b → a.sid = sid →
    (∃ ss', t.session? l = some ss' ∧ ss'.alert = none ∧ ss'.blinkOn = true ∧ ss'.blinkTimer = none) ∧ RowDirty t l 0
  stands : ∀ l ss, s.session? l = some ss → (∀ a, ss.alert = some a → ¬(a.basket = b ∧ a.sid = sid)) →
    ∃ ss', t.session? l = some ss' ∧ ss'.alert = ss.alert ∧ ss'.blinkOn = ss.blinkOn ∧ ss'.blinkTimer = ss.blinkTimer

/-! ## Line fitting -/

/-- A word of a text with the gap in front of it (R135): the gap's cells are word spaces, and DHYPH cells beside them, which have
no effect; the word's are characters, fixed spaces, HARD and DHYPH cells, and its first is no DHYPH. -/
structure GapWord where
  gap : List TextItem
  word : List TextItem

structure GapWord.Proper (x : GapWord) : Prop where
  gap : ∀ i ∈ x.gap, i.cell = .space ∨ i.cell = .dhyph
  word : x.word ≠ [] ∧ ∀ i ∈ x.word, i.isChar = true ∨ i.cell ∈ [.en, .em, .thin, .hard, .dhyph]
  first : ∀ i ∈ x.word.head?, i.cell ≠ .dhyph

/-- Words in text order, each but the first behind a gap that begins with a word space. -/
structure ProperWords (l : List GapWord) : Prop where
  each : ∀ x ∈ l, x.Proper
  apart : ∀ x ∈ l.tail, (x.gap.head?).map TextItem.cell = some .space

/-- The cells of words and their gaps. -/
def wordsText (l : List GapWord) : List TextItem := l.flatMap fun x => x.gap ++ x.word

/-- The one gap that a gap's word spaces make, at the width a line of this mode is built with (R135, R137): its minimum in
JUSTIFY, its optimum in LEFT, RIGHT and CENTER, at the size in force at its first word space. -/
def Copies.gapBefore (c : Copies) (m : Mode) (x : GapWord) : List Elem :=
  ((x.gap.find? fun i => i.cell == .space).map fun i =>
    ({ kind := .gap, width := (if m = .justify then c.format.minSpace else c.format.optSpace) * i.ctx.size, ctx := i.ctx,
       missing := false } : Elem)).toList

/-- A line of words, with no gap in front of the first (R137). -/
def Copies.lineOf (c : Copies) (m : Mode) : List GapWord → List Elem
  | [] => []
  | x :: xs => c.elems x.word ++ xs.flatMap fun y => c.gapBefore m y ++ c.elems y.word

/-- Elements fit a line of an indent (R137): within the measure, with at most 200 characters. -/
def Copies.Holds (c : Copies) (indent : Nat) (l : List Elem) : Prop :=
  indent + (l.map Elem.width).sum ≤ c.format.measure * 80 ∧ (l.filter Elem.isGlyph).length ≤ 200

/-- A position in a word at which it may be broken (R135, R138): a DHYPH with a character of the word before it and one behind it.
`led` says that the word is the rest of one broken before, a character of which stands before it. -/
def BreakAt (led : Bool) (w : List TextItem) (i : Nat) : Prop :=
  (w[i]?).map TextItem.cell = some .dhyph ∧ (led = true ∨ ∃ x ∈ w.take i, x.isChar = true) ∧ ∃ x ∈ w.drop i, x.isChar = true

/-- Two lists of elements are alike but for the widths of their gaps, and the gaps of the second have these widths, the leftmost
numbered 0. -/
def GapsSet (l l' : List Elem) (width : Nat → Elem → Nat) : Prop :=
  l'.length = l.length ∧ ∀ (i : Nat) (e : Elem), l[i]? = some e →
    l'[i]? = some (if e.isGap then { e with width := width (gapsOf (l.take i)).length e } else e)

/-! ## The image's sections -/

/-- An entry of a section is the last that names the place `k`: its first word is that number (R197). -/
def NamedLast (entries : List (List Word)) (k : Nat) (e : List Word) : Prop :=
  ∃ before after, entries = before ++ e :: after ∧ e.head?.map BitVec.toNat = some k ∧
    ∀ x ∈ after, x.head?.map BitVec.toNat ≠ some k

/-- No entry of a section names the place `k`. -/
def Unnamed (entries : List (List Word)) (k : Nat) : Prop := ∀ x ∈ entries, x.head?.map BitVec.toNat ≠ some k

/-! ## Invariants -/

/-- At the end of every event each screen image shows the state (that the image is brought up to date there is log 45), each
DIRECTORY view lies in its list, no session has two codes in progress, no session and no test buffer has a byte to send beside
an empty holding slot, and the host stream is not idle with a frame to send, but for notices, IMAGE_STATE apart, that wait while an
order is due (R56, R71, R75, R77, R180, R187; log 12). -/
structure Settled (s : State) : Prop where
  image : ∀ (l : LineNo) ss, s.session? l = some ss → ss.image = Vector.ofFn (s.imageRow ss)
  apart : ∀ (l : LineNo) ss, s.session? l = some ss → ss.flight = none ∨ ss.codeOut = none
  view : ∀ (l : LineNo) ss v, s.session? l = some ss → ss.state = .directory → ss.view = some v →
    v.within (s.viewOf v).length = v
  sending : ∀ (l : LineNo) ss, s.session? l = some ss → s.lines[l].holding = none → ss.nextByte.1 = none
  test : ∀ l : LineNo, s.lines[l].owner = .idle → s.lines[l].holding = none → s.lines[l].test = []
  port : s.loader.loading = false → s.host.toHost = true → s.host.out = none →
    s.host.reply = none ∧ (s.host.notices = [] ∨ (s.host.orderDue = true ∧ s.host.imageStateDue = false))

/-- Every block is in the free set or holds 1 to 64 cells, and every chain names blocks 0 to 4095; each chained block is in
the chain of exactly one record, and once in it; and each record's cell count is the length of its text (R3, R15, R21). -/
structure StoreForm (s : State) : Prop where
  wf : storeWf s.store = true
  chains : ∀ sid : Sid, ∀ b ∈ s.chainOf sid, b < 4096
  owned : ∀ b : Nat, b ∈ s.store.map Prod.fst ↔ ∃ sid, b ∈ s.chainOf sid
  apart : ∀ (x y : Sid) b, b ∈ s.chainOf x → b ∈ s.chainOf y → x = y
  once : ∀ sid : Sid, (s.chainOf sid).Nodup
  counts : ∀ (sid : Sid) st, s.story? sid = some st → st.count = (s.text sid).length

/-- The baskets (R14, R15, R25, R26): a story is listed, once, in the basket its state names and in no other; no priority rises
along a list other than SPIKE's; and an OPEN story and a home are at a basket 0 to 22. -/
structure BasketForm (s : State) : Prop where
  listed : ∀ (b : BasketNo) (sid : Sid), sid ∈ s.stories b ↔ (s.story? sid).bind (fun st => st.place.basket?) = some b
  once : ∀ b : BasketNo, (s.stories b).Nodup
  bands : ∀ b : BasketNo, b ≠ spikeBasket → (s.stories b).Pairwise fun x y => (s.prio y).rank ≤ (s.prio x).rank
  desks : ∀ (sid : Sid) st, s.story? sid = some st → st.home.val ≤ 22 ∧ ∀ b, st.place = .opn b → b.val ≤ 22

/-- The holds (R15, R16, R68, R88): a session in EDIT holds the story it edits; and a line that holds a story has a session that
is signed on, and holds no other. -/
structure HoldForm (s : State) : Prop where
  edits : ∀ (l : LineNo) ss e, s.session? l = some ss → ss.state = .edit → ss.edit = some e →
    ∃ st, s.live? e.key = some st ∧ st.place = .held l
  holders : ∀ (sid : Sid) st (l : LineNo), s.story? sid = some st → st.place = .held l →
    ∃ ss, s.session? l = some ss ∧ ss.state ≠ .dark
  once : ∀ (x y : Sid) sx sy (l : LineNo), s.story? x = some sx → s.story? y = some sy → sx.place = .held l →
    sy.place = .held l → x = y

/-- The wire items (R15, R110, R114): an intake has an item only in BODY, and its item is a story in INTAKE that is no other
intake's; and a story in INTAKE is the item of an intake. -/
structure ItemForm (s : State) : Prop where
  items : ∀ (l : LineNo) ik it, s.intake? l = some ik → ik.item = some it →
    ik.state = .body ∧ (s.live? it.key).map Story.place = some .intake
  apart : ∀ (l m : LineNo) ik im it jt, s.intake? l = some ik → s.intake? m = some im → ik.item = some it →
    im.item = some jt → it.key.sid = jt.key.sid → l = m
  stories : ∀ (sid : Sid) st, s.story? sid = some st → st.place = .intake →
    ∃ (l : LineNo) (ik : Intake) (it : Item), s.intake? l = some ik ∧ ik.item = some it ∧ it.key = s.keyOf sid

/-- Where the stories of a job on a channel's set queue stand: SETTING under the job while it runs, and QUEUED under it before
(R15, R161, R164). -/
def Job.place (ch : Chan) (j : Job) : Place := if j.running then .setting ch j.number else .queued ch j.number

/-- The jobs (R15, R158, R161): the stories of a job stand QUEUED or, when it runs, SETTING under its channel and number, each in
one segment of one job; a story QUEUED or SETTING under a channel and a number is in such a job; no job behind the head of a
set queue runs; a running job has a count of its lines for each segment, and waits for an event. -/
structure JobForm (s : State) : Prop where
  segments : ∀ ch, ∀ j ∈ (s.chan ch).queue, j.segments ≠ [] ∧ (∀ b, j.after = some b → b.val ≤ 22) ∧
    ∀ g ∈ j.segments, (s.live? g.key).map Story.place = some (j.place ch)
  apart : ((s.chanA.queue ++ s.chanB.queue).flatMap fun j => j.segments.map fun g => g.key.sid).Nodup
  stories : ∀ (sid : Sid) st ch n, s.story? sid = some st → st.place = .queued ch n ∨ st.place = .setting ch n →
    ∃ j ∈ (s.chan ch).queue, st.place = j.place ch ∧ ∃ g ∈ j.segments, g.key = s.keyOf sid
  waiting : ∀ ch, ∀ j ∈ (s.chan ch).queue.tail, j.running = false
  counted : ∀ ch j r, (s.chan ch).job? = some j → (s.chan ch).run = some r → r.segs.length = j.segments.length
  rest : ∀ ch, s.jobAtRest ch

/-- The alerts (R40, R41): an alert names a story that stands in its basket, one of 0 to 22, with FLASH or URGENT, on a session
that is signed on. -/
def AlertForm (s : State) : Prop :=
  ∀ (l : LineNo) ss a, s.session? l = some ss → ss.alert = some a →
    ss.state ≠ .dark ∧ a.basket ≠ spikeBasket ∧ a.prio ≠ .routine ∧ a.sid ∈ s.stories a.basket

/-- While the image is read after a power start every record is FREE, every line IDLE, both set queues empty, and the host
channel has no frame and no order in hand (R23, R44, R158, R187, R198). -/
structure LoadForm (s : State) : Prop where
  free : s.loader.loading = true → ∀ sid : Sid, s.story? sid = none
  idle : s.loader.loading = true → ∀ l : LineNo, s.lines[l].owner = .idle
  queues : s.loader.loading = true → ∀ ch, (s.chan ch).queue = []
  port : s.loader.loading = true → s.host.bufA = .free ∧ s.host.bufB = .free ∧ s.host.active = none

/-- Every record that is not FREE is in the one place its state names, and each place has the stories it names (R14 to R16): the
baskets list the OPEN and the KILLED stories, the lines of signed-on sessions hold the HELD ones, the intakes' items are the
stories in INTAKE, and the jobs on the set queues hold the QUEUED and the SETTING ones; and an alert names a story in a basket. -/
structure DirectoryForm (s : State) : Prop where
  baskets : BasketForm s
  holds : HoldForm s
  items : ItemForm s
  jobs : JobForm s
  alerts : AlertForm s
  load : LoadForm s

/-- The EEPROM has its 8,192 words in their one form, and an IMAGE WRITE in hand stays within them (R195, R201). -/
structure EepromForm (s : State) : Prop where
  wf : eepromWf s.eeprom = true
  write : ∀ f first words, s.host.active = some { frame := f, work := .imageWrite first words } →
    first + words.length ≤ 8192

/-- The notice queue holds at most 96 notices, no two of one kind and subject (R186). -/
structure NoticeForm (s : State) : Prop where
  length : s.host.notices.length ≤ 96
  distinct : s.host.notices.Pairwise fun a b => a.merges b = false

/-- A line's settings are within R49, and its wire idle time within R109. -/
def LineRec.legal (r : LineRec) : Bool :=
  (r.settings.p == 1 || r.settings.p == 8) && decide (r.settings.d ≤ 4095) &&
    (r.settings.dataBits == 7 || r.settings.dataBits == 8) && (r.settings.stopBits == 1 || r.settings.stopBits == 2) &&
    within 1 30 r.idleTime

/-- The terminal settings are within R63. -/
def TermSettings.legal (t : TermSettings) : Bool :=
  decide (t.blankTime ≤ 60) && within 1 63 t.blinkOn && within 1 63 t.blinkOff && decide (t.banner.length ≤ 80) &&
    t.banner.all fun b => within 0x20 0x7E b.toNat

/-- A width table holds entries 0 to 63, and 0 for the word space (R126). -/
def legalWidths (t : Vector Nat 128) : Bool := t.all (fun w => decide (w ≤ 63)) && t[0] == 0

/-- Every setting that an order or the image can load is within its range (R25, R37, R44, R63, R109, R122, R124, R126, R162). -/
structure SettingsLegal (s : State) : Prop where
  formats : ∀ n : FormatNo, s.formats[n].inRange = true
  widths : ∀ f : Fin 16, legalWidths s.widths[f] = true
  params : ∀ ch, (s.chan ch).params.inRange = true
  term : s.term.legal = true
  lines : ∀ l : LineNo, s.lines[l].legal = true
  names : ∀ b : BasketNo, validName 8 s.baskets[b].name = true
  wire : s.baskets[wireBasket].name = ascii "WIRE"
  spike : s.baskets[spikeBasket].name = ascii "SPIKE"
  profiles : ∀ n : ProfileNo, s.profiles[n].code ≤ 9999 ∧ validName 8 s.profiles[n].name = true ∧
    s.profiles[n].defaultBasket.val ≤ 22

/-- No more than 32 lines have role TERMINAL, 4 WIRE and 2 SETTER (R45). -/
def RolesLimited (s : State) : Prop := ∀ r : Role, s.linesWith r ≤ r.limit

/-- A fit queue has at most 16 entries, one for a story, and none active behind the head (R149). -/
structure FitQueueForm (q : List FitEntry) : Prop where
  length : q.length ≤ 16
  distinct : (q.map fun e => e.key.sid).Nodup
  waiting : ∀ e ∈ q.tail, e.active = none

/-- A set queue has at most 32 jobs, none running behind the head, and the job counter runs from 1 to 65,535 (R158, R161). -/
structure SetQueueForm (c : Channel) : Prop where
  length : c.queue.length ≤ 32
  waiting : ∀ j ∈ c.queue.tail, j.running = false
  counter : 1 ≤ c.counter ∧ c.counter ≤ 65535

/-- A record has at most 4 reviewers, 4 moves and 192 blocks, and its set count stays within a byte (R10, R14, R16, R22). -/
structure StoryForm (st : Story) : Prop where
  reviewers : st.reviewers.length ≤ 4
  route : st.route.length ≤ 4
  setCount : st.setCount ≤ 255
  chain : st.chain.length ≤ 192

/-- Every queue, list and count of the machine stays within its bound: the fit queue and the set queues, the records and their
generations, the key FIFOs, the heading buffers with their skipped counts, the test buffers and the counts (R10, R14, R16,
R18, R22, R55, R58, R85, R110, R112, R149, R158, R161, R177). -/
structure Bounded (s : State) : Prop where
  fit : FitQueueForm s.fitQueue
  channels : ∀ ch, SetQueueForm (s.chan ch)
  stories : ∀ (sid : Sid) st, s.story? sid = some st → StoryForm st
  generations : ∀ sid : Sid, s.dir[sid].gen ≤ 255
  fifos : ∀ (l : LineNo) ss, s.session? l = some ss → ss.fifo.length ≤ 16
  intakes : ∀ (l : LineNo) ik, s.intake? l = some ik → ik.heading.length ≤ 40 ∧ ik.skipped ≤ 65535
  tests : ∀ l : LineNo, s.lines[l].test.length ≤ 64
  badFrames : s.host.badFrames ≤ 65535
  counts : ∀ l : LineNo, s.lines[l].parityErrors ≤ 65535 ∧ s.lines[l].framingErrors ≤ 65535 ∧
    s.lines[l].overruns ≤ 65535 ∧ s.lines[l].breaks ≤ 65535

end Machine

end Sys2Proof
end

