-- ==== Sys2Proof/Certificates/Slice0/Obligations.lean ====
section
/-! DEFINITION. The statements for the provers. Each says in its docstring which rules of spec/ it rests on; where a clause is
the model's own choice, the docstring names the assumption log's entry. -/

open Sys2Proof Sys2Proof.Machine

/-! ## The machine as a whole -/

/-- A step runs the command at the front of the queue on the state with the queue's rest; with no command waiting the block
idles (the model's own choice, log 3). -/
def Obligations.StepRunsTheFrontCommand : Prop :=
  (∀ (s : Machine.State) (c : Instr) (rest : List Instr), s.pending = c :: rest →
    Machine.step s = exec c { s with pending := rest }) ∧
  ∀ s : Machine.State, s.pending = [] → Machine.step s = .next s

/-- No step faults and no step is refused. It is the model's own choice: a command whose event cannot happen leaves the state
as it is (log 1), and with no command waiting the block idles (log 3). -/
def Obligations.EveryStepRunsOn : Prop := ∀ s : Machine.State, SafeStep s

/-- The state after reset meets every invariant that the steps keep. -/
def Obligations.ResetMeetsTheInvariants : Prop :=
  Settled State.reset ∧ StoreForm State.reset ∧ DirectoryForm State.reset ∧ EepromForm State.reset ∧ NoticeForm State.reset ∧
    SettingsLegal State.reset ∧ RolesLimited State.reset ∧ Bounded State.reset

/-- Every step keeps the screens showing the state, the views within their lists, one code in progress at most in a session,
and nothing waiting to be sent beside an empty holding slot or an idle host stream (R56, R58, R71, R74, R75, R77, R180; that an
image is brought up to date at the end of the event is the model's own reading, log 45, and so is that notices but IMAGE_STATE
wait while an order is due, log 12). -/
def Obligations.EveryStepSettles : Prop :=
  ∀ s t : Machine.State, Settled s → Machine.step s = .next t → Settled t

/-- Every step keeps the copy store and the directory in their form. Each block is free or holds 1 to 64 cells, chains name blocks
0 to 4095, each chained block is in the chain of exactly one record and once in it, and each cell count is the length of its text.
Each record that is not FREE is in the one place its state names, and each place has the stories that name it: an OPEN or KILLED
story is once in the list of its basket, and no other is there; the line of a HELD story has a signed-on session, holds no
other story, and a session in EDIT holds the story it edits; a story in INTAKE is the item of one intake, and an intake's item is
in INTAKE; a QUEUED or SETTING story is in one segment of one job of its number on its channel's queue, and a job's stories are
QUEUED, or SETTING once it runs. No basket list but SPIKE's holds a higher priority behind a lower. A running job waits for an
event, and an alert names a FLASH or URGENT story that stands in its basket (R3, R5 to R9, R14 to R16, R21, R26, R40, R41, R110,
R114, R158, R161, R164, R166). It is stated for settings that are legal, since a profile's default basket becomes a story's
home. -/
def Obligations.EveryStepKeepsTheStore : Prop :=
  ∀ s t : Machine.State, SettingsLegal s → StoreForm s → DirectoryForm s → Machine.step s = .next t →
    StoreForm t ∧ DirectoryForm t

/-- Every step keeps the EEPROM to its 8,192 words, with any IMAGE WRITE in hand within them, and the notice queue to 96 notices,
no two of one kind and subject (R186, R195, R201). -/
def Obligations.EveryStepKeepsTheEepromAndTheNotices : Prop :=
  (∀ s t : Machine.State, EepromForm s → Machine.step s = .next t → EepromForm t) ∧
  ∀ s t : Machine.State, NoticeForm s → Machine.step s = .next t → NoticeForm t

/-- Every step keeps every loadable setting within its range, and the names WIRE and SPIKE; and it keeps the limits on roles: 32
TERMINAL, 4 WIRE and 2 SETTER lines (R25, R37, R45, R46, R49, R63, R109, R122, R124, R126, R162, R197). -/
def Obligations.EveryStepKeepsSettingsAndRolesLegal : Prop :=
  (∀ s t : Machine.State, SettingsLegal s → Machine.step s = .next t → SettingsLegal t) ∧
  ∀ s t : Machine.State, RolesLimited s → Machine.step s = .next t → RolesLimited t

/-- Every step keeps the fit queue, the set queues, the reviewer lists, the route histories, the chains, the generations, the
key FIFOs, the heading and test buffers and the counts within their bounds (R10, R16, R18, R22, R55, R58, R85, R110, R112,
R149, R150, R158 to R161, R177). It is stated for chains that name no block twice, as a split lengthens a chain by one only
then. -/
def Obligations.EveryStepKeepsTheBounds : Prop :=
  ∀ s t : Machine.State, StoreForm s → Bounded s → Machine.step s = .next t → Bounded t

/-! ## Power start and the image -/

/-- POWER_START gives every block its power start values and begins the image read; the EEPROM is left as it was when no
IMAGE WRITE was in hand (R23, R25, R37, R44, R109, R123, R158, R162, R178, R187, R198, R201). -/
def Obligations.PowerStartSetsEveryBlock : Prop :=
  ∀ s : Machine.State, RunsTo (exec .powerStart s) fun t =>
    t.store = [] ∧ (∀ sid : Sid, t.dir[sid] = { gen := 0, story := none }) ∧
    (∀ b : BasketNo, t.baskets[b] = { name := defaultBasketName b, stories := [] }) ∧
    (∀ n : ProfileNo, t.profiles[n] = Profile.default n) ∧
    (∀ l : LineNo, t.lines[l].owner = .idle ∧
      t.lines[l].settings = { p := 1, d := 63, dataBits := 8, parity := .none, stopBits := 1 } ∧
      t.lines[l].rx = .waitMark ∧ t.lines[l].slot = none ∧ t.lines[l].holding = none ∧ t.lines[l].shift = none ∧
      t.lines[l].test = [] ∧ t.lines[l].idleTimer = false ∧ t.lines[l].parityErrors = 0 ∧ t.lines[l].framingErrors = 0 ∧
      t.lines[l].overruns = 0 ∧ t.lines[l].breaks = 0 ∧ t.lines[l].accept = 0#26 ∧ t.lines[l].idleTime = 8) ∧
    t.term = { blankTime := 15, blinkOn := 6, blinkOff := 4, banner := ascii "VESJAN 612" } ∧
    (∀ n : FormatNo, t.formats[n] = Format.default n) ∧ (∀ (f : Fin 16) (i : Fin 128), t.widths[f][i] = 0) ∧
    t.fitQueue = [] ∧
    (∀ ch, (t.chan ch).state = .offline ∧ (t.chan ch).reason = some .noLine ∧ (t.chan ch).flow = false ∧
      (t.chan ch).lastStatus = none ∧ (t.chan ch).queue = [] ∧ (t.chan ch).cancelPending = false ∧
      (t.chan ch).staged = none ∧ (t.chan ch).stallTimer = none ∧ (t.chan ch).run = none ∧ (t.chan ch).counter = 1 ∧
      (t.chan ch).params = { k := 0, dc := 20, ds := 10, df := 1000, dz := 200, dl := 10, stall := 120 }) ∧
    t.host.bufA = .free ∧ t.host.bufB = .free ∧ t.host.gapTimer = false ∧ t.host.badFrames = 0 ∧ t.host.reply = none ∧
    t.host.out = none ∧ t.host.notices = [] ∧ t.host.overflow = false ∧ t.host.active = none ∧
    t.loader.loading = true ∧ t.pending = s.pending ∧
    (s.host.active = none → t.eeprom = s.eeprom)

/-- The check of an image: VALID exactly when the signature, the image length, the extent of every present section and the
sum are right, and otherwise the first failure in that order (R195, R196). -/
def Obligations.ImageCheckTakesItsTestsInOrder : Prop :=
  ∀ e : List (Nat × Word),
    let signature := (eepromWord e 0).toNat / 4096 = 0xA
    let length := 16 ≤ (eepromWord e 1).toNat ∧ (eepromWord e 1).toNat ≤ 8192
    let extents := ∀ p ∈ presentSections e,
      16 ≤ p ∧ p + (eepromWord e p).toNat < (eepromWord e 1).toNat ∧ p + (eepromWord e p).toNat ≤ 8191
    let total := (readWords e 0 16 ++ (presentSections e).flatMap fun p => readWords e p ((eepromWord e p).toNat + 1)).foldl
      (· + ·) 0 = (0x5C3A : Word)
    (checkImage e = .valid ↔ signature ∧ length ∧ extents ∧ total) ∧ (checkImage e = .signature ↔ ¬signature) ∧
    (checkImage e = .range ↔ signature ∧ ¬(length ∧ extents)) ∧
    (checkImage e = .sum ↔ signature ∧ length ∧ extents ∧ ¬total)

/-- IMAGE_LOAD_DONE: the image state is set and IMAGE_STATE is queued. An image that is not VALID leaves every setting and role
as power start set it. A VALID one gives each line the role of section 1 and applies sections 2 to 10: the last entry that
names a thing gives it its new value, a bad field or entry the value of before, or its default, and a thing that no entry names
keeps what it had. The channels, OFFLINE as power start left them, stay so with the reason of their binding, and the store, the
directory and the queues of work are not touched (R122, R162, R197, R198; that a number of two words has its high word first
and that the names of sections 4 and 5 run to the first 0x00, as R197 says of section 3, are the model's own choices, logs 25
and 59, and that a later bad entry leaves the value of before the section is its own reading, log 26). -/
def Obligations.ImageLoadDoneSetsTheImageState : Prop :=
  ∀ s : Machine.State, s.loader.loading = true → RunsTo (exec .imageLoadDone s) fun t =>
    t.loader = { result := checkImage s.eeprom, loading := false } ∧ Told t (.imageState (checkImage s.eeprom)) ∧
    t.store = s.store ∧ t.dir = s.dir ∧ t.fitQueue = s.fitQueue ∧ t.eeprom = s.eeprom ∧ t.pending = s.pending ∧
    (∀ b, t.stories b = s.stories b) ∧
    (∀ ch, (t.chan ch).reason = some (if (t.boundLine ch).isSome then .notReady else .noLine) ∧
      (t.chan ch).state = (s.chan ch).state ∧ ((s.chan ch).state = .offline → (t.chan ch).state = .offline) ∧
      (t.chan ch).queue = (s.chan ch).queue) ∧
    (checkImage s.eeprom = .valid →
      let entries := sectionEntries s.eeprom
      (∀ l : LineNo, t.lines[l].owner.role = (imageRoles s.eeprom).getD l.val .idle) ∧
      (∀ l : LineNo,
        (∀ w rate frame, NamedLast (entries 2 3) l.val [w, rate, frame] →
          let plain := rate.toNat % 32768 < 4096
          t.lines[l].settings =
            { p := if plain ∧ 32768 ≤ rate.toNat then 8 else 1
              d := if plain then rate.toNat % 4096 else 63
              dataBits := if frame.toNat / 256 = 7 then 7 else 8
              parity := if frame.toNat % 4 = 1 then .even else if frame.toNat % 4 = 2 then .odd else .none
              stopBits := if frame.getLsbD 7 then 2 else 1 }) ∧
        (Unnamed (entries 2 3) l.val → t.lines[l].settings = s.lines[l].settings)) ∧
      (∀ b : BasketNo,
        (∀ w name, NamedLast (entries 3 5) b.val (w :: name) → 1 ≤ b.val → b.val ≤ 22 →
          t.baskets[b].name = if validName 8 (imageName name) then imageName name else s.baskets[b].name) ∧
        (Unnamed (entries 3 5) b.val ∨ b.val = 0 ∨ b.val = 23 → t.baskets[b].name = s.baskets[b].name)) ∧
      (∀ n : ProfileNo,
        (∀ w code n1 n2 n3 n4 t1 t2 s1 s2 w1 w2 pb ch,
          NamedLast (entries 4 14) n.val [w, code, n1, n2, n3, n4, t1, t2, s1, s2, w1, w2, pb, ch] →
          t.profiles[n] =
            (RawProfile.check
              { code := if code.toNat ≤ 9999 then some code.toNat else none, name := imageName [n1, n2, n3, n4],
                take := maskOf (t1.toNat * 65536 + t2.toNat), send := maskOf (s1.toNat * 65536 + s2.toNat),
                watch := maskOf (w1.toNat * 65536 + w2.toNat), permissions := hiByte pb, basket := loByte pb,
                channel := if ch = 0 then some .a else if ch = 1 then some .b else none }).getD s.profiles[n]) ∧
        (Unnamed (entries 4 14) n.val → t.profiles[n] = s.profiles[n])) ∧
      (∀ n : FormatNo,
        (∀ w n1 n2 n3 n4 measure fontSize leading modeSpace minOpt maxIndent extra,
          NamedLast (entries 5 12) n.val [w, n1, n2, n3, n4, measure, fontSize, leading, modeSpace, minOpt, maxIndent, extra] →
          t.formats[n] =
            (RawFormat.check
              { name := imageName [n1, n2, n3, n4], measure := measure.toNat, font := (hiByte fontSize).toNat,
                size := (loByte fontSize).toNat, leading := leading.toNat, mode := modeOf (hiByte modeSpace).toNat,
                minSpace := (hiByte minOpt).toNat, optSpace := (loByte minOpt).toNat, maxSpace := (hiByte maxIndent).toNat,
                letterspace := (loByte modeSpace).toNat, indent := (loByte maxIndent).toNat,
                extraLead := extra.toNat }).getD (Format.default n)) ∧
        (Unnamed (entries 5 12) n.val → t.formats[n] = Format.default n)) ∧
      (∀ (f : Fin 16) (i : Fin 128),
        (∀ w ws, NamedLast (entries 6 65) f.val (w :: ws) →
          let width := ((bytesOfWords ws).getD i.val 0).toNat
          t.widths[f][i] = if i.val = 0 ∨ 63 < width then 0 else width) ∧
        (Unnamed (entries 6 65) f.val → t.widths[f][i] = 0)) ∧
      (∀ l : LineNo,
        (∀ w hi lo idle, NamedLast (entries 7 4) l.val [w, hi, lo, idle] →
          let n := hi.toNat * 65536 + lo.toNat
          (n < 2 ^ 26 ∧ 1 ≤ idle.toNat ∧ idle.toNat ≤ 30 →
            t.lines[l].accept = BitVec.ofNat 26 n ∧ t.lines[l].idleTime = idle.toNat) ∧
          (2 ^ 26 ≤ n ∨ idle.toNat = 0 ∨ 30 < idle.toNat →
            t.lines[l].accept = s.lines[l].accept ∧ t.lines[l].idleTime = s.lines[l].idleTime)) ∧
        (Unnamed (entries 7 4) l.val →
          t.lines[l].accept = s.lines[l].accept ∧ t.lines[l].idleTime = s.lines[l].idleTime)) ∧
      (∀ ch,
        (∀ w k dc ds df dz dl stall, NamedLast (entries 8 8) (chanIndex ch) [w, k, dc, ds, df, dz, dl, stall] →
          let upTo (most default : Nat) (v : Word) : Nat := if v.toNat ≤ most then v.toNat else default
          (t.chan ch).params =
            { k := upTo 7 0 k, dc := upTo 255 20 dc, ds := upTo 255 10 ds, df := upTo 4095 1000 df, dz := upTo 255 200 dz,
              dl := upTo 255 10 dl, stall := if stall.toNat < 10 then 120 else upTo 600 120 stall }) ∧
        (Unnamed (entries 8 8) (chanIndex ch) → (t.chan ch).params = SetterParams.default)) ∧
      (∀ blank on off more, entries 9 3 = [blank, on, off] :: more →
        t.term.blankTime = (if blank.toNat ≤ 60 then blank.toNat else 15) ∧
        t.term.blinkOn = (if on.toNat = 0 ∨ 63 < on.toNat then 6 else on.toNat) ∧
        t.term.blinkOff = (if off.toNat = 0 ∨ 63 < off.toNat then 4 else off.toNat)) ∧
      (entries 9 3 = [] → t.term.blankTime = s.term.blankTime ∧ t.term.blinkOn = s.term.blinkOn ∧
        t.term.blinkOff = s.term.blinkOff) ∧
      (∀ count ws, (entries 10 41).getLast? = some (count :: ws) →
        t.term.banner =
          if count.toNat ≤ 80 then
            ((bytesOfWords ws).take count.toNat).map fun b => if 0x20 ≤ b.toNat ∧ b.toNat ≤ 0x7E then b else 0x20
          else s.term.banner) ∧
      (entries 10 41 = [] → t.term.banner = s.term.banner)) ∧
    (checkImage s.eeprom ≠ .valid → SameLines s t ∧ t.profiles = s.profiles ∧ t.term = s.term ∧ t.formats = s.formats ∧
      t.widths = s.widths ∧ (∀ b : BasketNo, t.baskets[b].name = s.baskets[b].name) ∧
      ∀ ch, (t.chan ch).params = (s.chan ch).params)

/-! ## The host port -/

/-- INBOUND_BYTE with the pins clear. While the acknowledge is withheld the byte waits. Hunting, a byte other than the lead
byte is dropped and the lead byte begins a frame in a FREE buffer with the gap timer running. In a FILLING buffer a first
length byte, or a byte short of the frame's end, is kept; a length outside 2 to 1026 discards the frame, counts it and
queues BAD_FRAME; the frame's last byte leaves the buffer HELD (R176, R177, R178). -/
def Obligations.InboundByteBuildsAFrame : Prop :=
  ∀ (s : Machine.State) (b : Byte), s.host.toHost = false → s.host.waiting = none →
    (s.withheld = true →
      Reaches (exec (.inboundByte b) s) { s with host := { s.host with waiting := some b } }) ∧
    (s.withheld = false → s.host.filling? = none → b ≠ 0xC3 → Reaches (exec (.inboundByte b) s) s) ∧
    (s.withheld = false → s.host.filling? = none → b = 0xC3 →
      ∃ isB, s.host.buf isB = .free ∧
        Reaches (exec (.inboundByte b) s)
          { s with host := { s.host.setBuf isB (.filling []) with gapTimer := true, lastB := isB } }) ∧
    ∀ isB bytes, s.withheld = false → s.host.filling? = some (isB, bytes) →
      (bytes = [] →
        Reaches (exec (.inboundByte b) s) { s with host := { s.host.setBuf isB (.filling [b]) with gapTimer := true } }) ∧
      (∀ hi, bytes = [hi] → ofBE16 hi b < 2 ∨ 1026 < ofBE16 hi b →
        Reaches (exec (.inboundByte b) s)
          { s with
            host := HostChan.offer (.badFrame false none (Nat.min 65535 (s.host.badFrames + 1)))
              { s.host.setBuf isB .free with gapTimer := false, badFrames := Nat.min 65535 (s.host.badFrames + 1) } }) ∧
      (∀ hi, bytes = [hi] → 2 ≤ ofBE16 hi b → ofBE16 hi b ≤ 1026 →
        Reaches (exec (.inboundByte b) s) { s with host := { s.host.setBuf isB (.filling [hi, b]) with gapTimer := true } }) ∧
      (∀ hi lo more, bytes = hi :: lo :: more → more.length + 1 < ofBE16 hi lo →
        Reaches (exec (.inboundByte b) s)
          { s with host := { s.host.setBuf isB (.filling (bytes ++ [b])) with gapTimer := true } }) ∧
      (∀ hi lo kind tag body, bytes ++ [b] = hi :: lo :: kind :: tag :: body → body.length + 2 = ofBE16 hi lo →
        Reaches (exec (.inboundByte b) s)
          { s with
            host :=
              { s.host.setBuf isB (.held { kind := kind, tag := tag, body := body } s.host.completed) with
                gapTimer := false, completed := s.host.completed + 1 } })

/-- GAP_EXPIRY discards the FILLING frame: its buffer is FREE, the bad-frame count rises, and BAD_FRAME is queued with the
tag if it has arrived. OUTBOUND_ACK moves the outbound frame on by a byte; the last byte of a reply empties the reply slot.
DIRECTION_CHANGE turns the direction and nothing else (R176, R177, R180; that a byte whose acknowledge is withheld stays on the
pins as the direction turns is the model's own reading, log 16). -/
def Obligations.PortEventsMoveTheFrames : Prop :=
  ∀ s : Machine.State,
    (∀ isB bytes, s.host.filling? = some (isB, bytes) →
      Reaches (exec .gapExpiry s)
        { s with
          host := HostChan.offer (.badFrame true bytes[3]? (Nat.min 65535 (s.host.badFrames + 1)))
            { s.host.setBuf isB .free with gapTimer := false, badFrames := Nat.min 65535 (s.host.badFrames + 1) } }) ∧
    (∀ b next more reply, s.host.toHost = true → s.host.out = some { rest := b :: next :: more, reply := reply } →
      Reaches (exec .outboundAck s)
        { s with host := { s.host with out := some { rest := next :: more, reply := reply } } }) ∧
    (∀ b, s.host.toHost = true → s.host.out = some { rest := [b], reply := true } →
      Reaches (exec .outboundAck s) { s with host := { s.host with out := none, reply := none } }) ∧
    (∀ b, s.host.toHost = true → s.host.out = some { rest := [b], reply := false } →
      Reaches (exec .outboundAck s) { s with host := { s.host with out := none } }) ∧
    Reaches (exec .directionChange s) { s with host := { s.host with toHost := !s.host.toHost } }

/-- What an offered notice does to the queue: it replaces the queued notice of its kind and subject in that one's place, even
when the queue is full; else it joins the tail of a queue below 96; else it is dropped and the overflow flag set. And what an
idle stream turned to the host sends: IMAGE_STATE before all, when it is the notice at the head; else the reply if there is
one, else the notice at the head, which leaves the queue, with the overflow flag as it stands. With the flag clear a reply goes as
it was made, and with the flag set it goes carrying it, but for an answer DONE to STATUS, which goes as it was made. Where an order
may be taken (a HELD buffer, no order acted on, an empty reply slot) no other notice goes before that order is taken and has made
its reply (R176, R178 to R181, R186, R187; that the notices wait for the order, and that IMAGE_STATE goes before a reply, are the
model's own reading, log 12, and so is what a drop between a reply's making and its sending does to its flag, log 56). -/
def Obligations.NoticesMergeJoinOrAreDropped : Prop :=
  ∀ (h : HostChan) (n : Notice),
    (∀ before m after, h.notices = before ++ m :: after → n.merges m = true → (∀ x ∈ before ++ after, n.merges x = false) →
      h.offer n = { h with notices := before ++ n :: after }) ∧
    ((∀ m ∈ h.notices, n.merges m = false) → h.notices.length < 96 →
      h.offer n = { h with notices := h.notices ++ [n] }) ∧
    ((∀ m ∈ h.notices, n.merges m = false) → 96 ≤ h.notices.length → h.offer n = { h with overflow := true }) ∧
    (∀ x rest, h.toHost = true → h.out = none → h.notices = .imageState x :: rest →
      h.pump = { h with out := some { rest := (Notice.imageState x).frame h.overflow, reply := false }, notices := rest }) ∧
    (∀ bytes, h.toHost = true → h.out = none → h.reply = some bytes → (∀ x, h.notices.head? ≠ some (.imageState x)) →
      h.overflow = false → h.pump = { h with out := some { rest := bytes, reply := true } }) ∧
    (∀ made f r body, h.toHost = true → h.out = none → h.reply = some (replyFrame made f r body) →
      (∀ x, h.notices.head? ≠ some (.imageState x)) → h.overflow = true →
      h.pump = { h with
        out := some
          { rest := replyFrame (if f.kind = 0x01 ∧ r = .done then made else true) f r body, reply := true } }) ∧
    (∀ m rest, h.toHost = true → h.out = none → h.reply = none → h.notices = m :: rest → h.orderDue = false →
      h.pump = { h with out := some { rest := m.frame h.overflow, reply := false }, notices := rest }) ∧
    (h.orderDue = true → (∀ x, h.notices.head? ≠ some (.imageState x)) → h.pump = h)

/-- Every order of tag 0 is refused BAD_ARGUMENT with nothing changed, and a kind that names no order is refused
UNKNOWN_ORDER. An order on one story whose key has a number outside 1 to 512, or the number of a FREE record, is refused
NO_SUCH_STORY, and one whose key has another generation than the record STALE_KEY, with nothing changed. An order whose frame is
not the one to be taken leaves the state as it is (the last clause is the model's own choice, log 1; that MOVE and PRIORITY
check the key before their other fields is its own reading, log 18) (R18, R178, R179). -/
def Obligations.OrdersAreRefusedByTagAndKind : Prop :=
  ∀ (s : Machine.State) (f : Frame), s.nextOrder = some f →
    (∀ row ∈ orderRows, f.kind = row.2 → f.tag = 0 → Reaches (exec row.1 s) (s.answered f .badArgument [])) ∧
    ((∀ row ∈ orderRows, f.kind ≠ row.2) → Reaches (exec .unknownOrder s) (s.answered f .unknownOrder [])) ∧
    (∀ row ∈ orderRows, ∀ n1 n2 gen, f.kind = row.2 → f.tag ≠ 0 → KeyBody row.2 n1 n2 gen f.body →
      (ofBE16 n1 n2 = 0 ∨ 512 < ofBE16 n1 n2 → Reaches (exec row.1 s) (s.answered f .noSuchStory [])) ∧
      (∀ sid : Sid, ofBE16 n1 n2 = sid.val + 1 →
        (s.story? sid = none → Reaches (exec row.1 s) (s.answered f .noSuchStory [])) ∧
        (∀ st, s.story? sid = some st → s.dir[sid].gen ≠ gen.toNat →
          Reaches (exec row.1 s) (s.answered f .staleKey [])))) ∧
    (∀ row ∈ orderRows, f.kind ≠ row.2 → exec row.1 s = .next s)

/-- STATUS answers DONE with the counts and states of R181, and its reply once made clears the overflow flag; nothing else
changes (R181, R190). -/
def Obligations.StatusReportsAndClearsOverflow : Prop :=
  ∀ (s : Machine.State) (f : Frame), Front s 0x01 f → f.body = [] →
    Reaches (exec .status s)
      { s with
        host :=
          { s.host.releaseBuf with
            reply := some (replyFrame s.host.overflow f .done
              (be16 (4096 - s.store.length) ++ be16 ((List.finRange 512).countP fun sid => (s.story? sid).isNone) ++
                ((List.finRange 24).flatMap fun b => be16 (s.stories b).length) ++ s.channelStatus .a ++ s.channelStatus .b ++
                [byte8 (s.linesWith .idle), byte8 (s.linesWith .terminal), byte8 (s.linesWith .wire),
                  byte8 (s.linesWith .setter)] ++
                s.loader.result.bytes ++ [byte8 s.host.notices.length] ++
                be16 s.host.badFrames ++ [flagByte s.host.overflow]))
            active := none, overflow := false } }.takeWaiting

/-! ## Lines and terminals, by order -/

/-- LINE ROLE. A line outside 0 to 39 is refused; the role the line has is answered DONE with nothing changed; a role whose
limit the other lines have reached is refused ROLE_LIMIT. Otherwise the line is reset and takes the role with its owner in
its initial state, and every other line keeps its role and receiver; the settings of the line are kept. The reset empties the
holding slot and the test buffer, a byte in the shift stage finishing, and ends the old owner's work: a terminal's held story is
OPEN at home, its line reviews no story and TERMINAL_SIGN is queued if it was signed on; an intake's item ends TRUNCATED into
WIRE, or its record is freed if it holds no cells. A new session sends its NORMAL mode code first. The setting channels are then
bound again: a channel whose line is the one it had is not affected; one that had none waits OFFLINE for READY with
reason NOT_READY; one whose line changes or goes is OFFLINE with reason LINE_RESET or NO_LINE, its running job has ended FAILED
with its stories OPEN at home, and its waiting jobs stay queued (R45, R46, R48, R53, R59, R60, R62,
R70, R118, R121, R162, R175; that a line which loses its channel without a reset of its own has its holding slot emptied is the
model's own reading, log 32; whether a new WIRE line is marking, on which its idle timer starts, is the last level sampled, or
where no sample tells it a free value, log 8). -/
def Obligations.LineRoleChangesTheRole : Prop :=
  ∀ (s : Machine.State) (f : Frame) (line code : Byte), Front s 0x02 f → f.body = [line, code] →
    (lineOf line = none → Reaches (exec .lineRole s) (s.answered f .badArgument [])) ∧
    ∀ l, lineOf line = some l →
      (s.lines[l].owner.role = roleOf code → Reaches (exec .lineRole s) (s.answered f .done [])) ∧
      (s.lines[l].owner.role ≠ roleOf code → (roleOf code).limit ≤ s.othersWith l (roleOf code) →
        Reaches (exec .lineRole s) (s.answered f .roleLimit [])) ∧
      (s.lines[l].owner.role ≠ roleOf code → s.othersWith l (roleOf code) < (roleOf code).limit →
        RunsTo (exec .lineRole s) fun t =>
          Replied s t f .done [] ∧ t.lines[l].owner.role = roleOf code ∧
          (roleOf code = .terminal → t.sessionCore l = some (Session.fresh s.term.blankTime).core) ∧
          (roleOf code = .wire → t.intake? l = some Intake.initial ∧ t.lines[l].idleTimer = s.markingNow l) ∧
          t.lines[l].rx = .waitMark ∧ t.lines[l].slot = none ∧ t.lines[l].parityErrors = 0 ∧ t.lines[l].framingErrors = 0 ∧
          t.lines[l].overruns = 0 ∧ t.lines[l].breaks = 0 ∧ t.lines[l].settings = s.lines[l].settings ∧
          t.lines[l].accept = s.lines[l].accept ∧ t.lines[l].idleTime = s.lines[l].idleTime ∧
          (∀ m : LineNo, m ≠ l → t.lines[m].owner.role = s.lines[m].owner.role ∧
            t.lines[m].receiver = s.lines[m].receiver) ∧
          t.lines[l].test = [] ∧ (s.lines[l].shift.isSome = true → t.lines[l].shift = s.lines[l].shift) ∧
          (roleOf code ≠ .terminal → t.lines[l].holding = none ∧ t.lines[l].shift = s.lines[l].shift) ∧
          (roleOf code = .terminal →
            (s.lines[l].shift.isSome = true → t.lines[l].holding = some 0x1B) ∧
            (s.lines[l].shift = none →
              t.lines[l].shift = some { byte := s.lines[l].settings.sent 0x1B, settings := s.lines[l].settings } ∧
              t.lines[l].holding = some 0x30)) ∧
          (∀ ss, s.session? l = some ss →
            (DirectoryForm s → ∀ sid st, s.heldBy l = some sid → s.story? sid = some st →
              (t.story? sid).map Story.place = some (.opn st.home) ∧ sid ∈ t.stories st.home) ∧
            (∀ e st', ss.state = .review → ss.edit = some e → t.story? e.key.sid = some st' → l ∉ st'.reviewers) ∧
            (ss.state ≠ .dark → Told t (.terminalSign l none .lineReset))) ∧
          (∀ ik it st, s.intake? l = some ik → ik.item = some it → s.story? it.key.sid = some st → DirectoryForm s →
            (st.count = 0 → t.dir[it.key.sid] = { gen := (s.dir[it.key.sid].gen + 1) % 256, story := none }) ∧
            (st.count ≠ 0 → HasStory s t it.key.sid { st with place := .opn wireBasket, truncated := true } ∧
              it.key.sid ∈ t.stories wireBasket ∧
              Told t (.wireItem it.key l it.service it.number st.prio st.count .lineReset true 0))) ∧
          SameSettings s t ∧
          ∀ ch,
            (t.boundLine ch = s.boundLine ch → t.chan ch = s.chan ch) ∧
            (t.boundLine ch ≠ s.boundLine ch →
              let reason : OfflineReason :=
                if t.boundLine ch = none then .noLine else if s.boundLine ch = none then .notReady else .lineReset
              (t.chan ch).state = .offline ∧ (t.chan ch).reason = some reason ∧ (t.chan ch).flow = false ∧
              (t.chan ch).lastStatus = none ∧ (t.chan ch).cancelPending = false ∧ (t.chan ch).staged = none ∧
              (t.chan ch).stallTimer = none ∧ (t.chan ch).run = none ∧
              Told t (.setterState ch .offline (some reason) ((t.chan ch).job?.map Job.number)) ∧
              ((s.chan ch).job? = none → (t.chan ch).queue = (s.chan ch).queue) ∧
              (∀ j r, (s.chan ch).job? = some j → (s.chan ch).run = some r →
                (t.chan ch).queue = (s.chan ch).queue.tail ∧
                (DirectoryForm s → Told t (.setDone ch j .lineReset r.segs) ∧
                  ∀ g ∈ j.segments, ∀ st, s.story? g.key.sid = some st →
                    (t.story? g.key.sid).map Story.place = some (.opn st.home) ∧ g.key.sid ∈ t.stories st.home)) ∧
              (∀ m : LineNo, m ≠ l → s.boundLine ch = some m →
                t.lines[m].holding = none ∧ t.lines[m].shift = s.lines[m].shift)))

/-- LINE SET with every field legal gives the line the new settings and its receiver WAIT-MARK, and changes nothing else; with
any field illegal it is refused. LINE TEST gives an IDLE line its pattern of 1 to 64 bytes, sent from the holding slot on, and
is refused WRONG_ROLE elsewhere. LINE STATUS reports the line's record with the part of its role, and clears its counts when
asked to (R49, R56, R57, R58, R190; the level of an IDLE or WIRE line is the last one sampled, or where no sample tells it a
free value, log 8). -/
def Obligations.LineOrdersSetTestAndReport : Prop :=
  ∀ (s : Machine.State) (f : Frame) (line : Byte) (l : LineNo), lineOf line = some l →
    (∀ p d1 d2 dataBits parity stopBits, Front s 0x03 f → f.body = [line, p, d1, d2, dataBits, parity, stopBits] →
      (∀ par, parityOf parity = some par → p = 1 ∨ p = 8 → ofBE16 d1 d2 ≤ 4095 → dataBits = 7 ∨ dataBits = 8 →
        stopBits = 1 ∨ stopBits = 2 →
        Reaches (exec .lineSet s)
          ({ s with
            lines := s.lines.set l
              { s.lines[l] with
                settings := { p := p.toNat, d := ofBE16 d1 d2, dataBits := dataBits.toNat, parity := par,
                              stopBits := stopBits.toNat }
                rx := .waitMark } }.answered f .done [])) ∧
      (parityOf parity = none ∨ (p ≠ 1 ∧ p ≠ 8) ∨ 4095 < ofBE16 d1 d2 ∨ (dataBits ≠ 7 ∧ dataBits ≠ 8) ∨
          (stopBits ≠ 1 ∧ stopBits ≠ 2) →
        Reaches (exec .lineSet s) (s.answered f .badArgument []))) ∧
    (∀ first rest, Front s 0x06 f → f.body = line :: byte8 (rest.length + 1) :: first :: rest → rest.length < 64 →
      (s.lines[l].owner = .idle →
        RunsTo (exec .lineTest s) fun t =>
          Replied s t f .done [] ∧ t.core = (s.answered f .done []).core ∧
          (s.lines[l].holding.isSome = true → t.lines[l].test = first :: rest) ∧
          (s.lines[l].holding = none → s.lines[l].shift.isSome = true →
            t.lines[l].holding = some first ∧ t.lines[l].test = rest) ∧
          (s.lines[l].holding = none → s.lines[l].shift = none →
            t.lines[l].shift = some { byte := s.lines[l].settings.sent first, settings := s.lines[l].settings } ∧
            t.lines[l].holding = rest.head? ∧ t.lines[l].test = rest.tail)) ∧
      (s.lines[l].owner.role ≠ .idle → Reaches (exec .lineTest s) (s.answered f .wrongRole []))) ∧
    (∀ clear c, Front s 0x05 f → f.body = [line, clear] → parseFlag clear = some c → RolesLimited s →
      let level := flagByte (!s.markingNow l)
      let present (absent : List Byte) (field : Option (List Byte)) := field.elim (0 :: absent) (1 :: ·)
      let part : List Byte :=
        match s.lines[l].owner with
        | .idle => [level, byte8 s.lines[l].test.length]
        | .terminal ss =>
          [byte8 ([SessState.dark, .directory, .edit, .review].idxOf ss.state),
            byte8 ([DispMode.normal, .inverse, .blank, .test].idxOf ss.mode), byte8 ss.fifo.length,
            byte8 ((List.finRange 24).countP fun r => ss.dirty[r])]
        | .wire ik =>
          byte8 ([IntakeState.seek, .heading, .body, .skip, .noisy].idxOf ik.state) ::
            (present [0xFF, 0xFF, 0xFF] (ik.item.map fun it => it.service :: be16 it.number) ++ [byte8 ik.errorRun, level])
        | .setter =>
          (s.boundChan l).elim [] fun ch =>
            let number : Byte := if ch = .a then 0 else 1
            [number, byte8 ([ChanState.offline, .idle, .running, .paused].idxOf (s.chan ch).state)] ++
              present [0xFF, 0xFF, 0xFF] ((s.chan ch).job?.map fun j => number :: be16 j.number) ++
              present [0xFF] ((s.chan ch).lastStatus.map fun b => [b])
      Reaches (exec .lineStatus s)
        ((if c then
            { s with
              lines := s.lines.set l
                { s.lines[l] with parityErrors := 0, framingErrors := 0, overruns := 0, breaks := 0 } }
          else s).answered f .done
          ([byte8 ([Role.idle, .terminal, .wire, .setter].idxOf s.lines[l].owner.role), byte8 s.lines[l].settings.p] ++
            be16 s.lines[l].settings.d ++
            [byte8 s.lines[l].settings.dataBits, byte8 ([Parity.none, .even, .odd].idxOf s.lines[l].settings.parity),
              byte8 s.lines[l].settings.stopBits] ++
            be16 s.lines[l].parityErrors ++ be16 s.lines[l].framingErrors ++ be16 s.lines[l].overruns ++
            be16 s.lines[l].breaks ++ part)))

/-- LINE RESET clears the line's counts, empties its slots and its test buffer and puts its receiver in WAIT-MARK; a byte in the
shift stage finishes; every role, every setting and every other receiver is kept. A terminal's session starts afresh with its
held story OPEN at home, and its NORMAL mode code is the first thing it sends. An intake's item ends TRUNCATED into WIRE, or its
record is freed if it holds no cells, and the intake starts afresh with its skipped count. A bound setter's running job ends
FAILED and its channel is OFFLINE with reason LINE_RESET. On an IDLE line nothing else changes (R59, R60, R61, R63, R70, R118,
R121, R175). -/
def Obligations.LineResetEndsTheLinesWork : Prop :=
  ∀ (s : Machine.State) (f : Frame) (line : Byte), Front s 0x04 f → f.body = [line] →
    (lineOf line = none → Reaches (exec .lineReset s) (s.answered f .badArgument [])) ∧
    ∀ l, lineOf line = some l → RunsTo (exec .lineReset s) fun t =>
      Replied s t f .done [] ∧ t.lines[l].rx = .waitMark ∧ t.lines[l].slot = none ∧ t.lines[l].parityErrors = 0 ∧
      t.lines[l].framingErrors = 0 ∧ t.lines[l].overruns = 0 ∧ t.lines[l].breaks = 0 ∧
      t.lines[l].settings = s.lines[l].settings ∧ t.lines[l].accept = s.lines[l].accept ∧
      t.lines[l].idleTime = s.lines[l].idleTime ∧
      (∀ m : LineNo, t.lines[m].owner.role = s.lines[m].owner.role) ∧
      (∀ m : LineNo, m ≠ l → t.lines[m].receiver = s.lines[m].receiver) ∧ SameSettings s t ∧
      t.lines[l].test = [] ∧ (s.lines[l].shift.isSome = true → t.lines[l].shift = s.lines[l].shift) ∧
      (s.session? l = none → t.lines[l].holding = none ∧ t.lines[l].shift = s.lines[l].shift) ∧
      (∀ ss, s.session? l = some ss →
        (s.lines[l].shift.isSome = true → t.lines[l].holding = some 0x1B) ∧
        (s.lines[l].shift = none →
          t.lines[l].shift = some { byte := s.lines[l].settings.sent 0x1B, settings := s.lines[l].settings } ∧
          t.lines[l].holding = some 0x30)) ∧
      (s.lines[l].owner = .idle → t.store = s.store ∧ t.dir = s.dir ∧ t.baskets = s.baskets ∧ t.fitQueue = s.fitQueue ∧
        SameChannels s t) ∧
      (∀ ss, s.session? l = some ss → t.sessionCore l = some (Session.fresh s.term.blankTime).core ∧
        (∀ sid, s.heldBy l = some sid → ∃ st st', s.story? sid = some st ∧ t.story? sid = some st' ∧
          st'.place = .opn st.home) ∧
        (ss.state ≠ .dark → Told t (.terminalSign l none .lineReset))) ∧
      (∀ ik, s.intake? l = some ik → t.intake? l = some { Intake.initial with skipped := ik.skipped } ∧
        ∀ it st, ik.item = some it → s.story? it.key.sid = some st →
          (st.count = 0 → t.dir[it.key.sid] = { gen := (s.dir[it.key.sid].gen + 1) % 256, story := none }) ∧
          (st.count ≠ 0 → HasStory s t it.key.sid { st with place := .opn wireBasket, truncated := true } ∧
            it.key.sid ∈ t.stories wireBasket ∧ SameRecords s t it.key.sid ∧ t.store = s.store ∧
            Told t (.wireItem it.key l it.service it.number st.prio st.count .lineReset true 0))) ∧
      (∀ ch, s.boundChan l = some ch → s.lines[l].owner = .setter →
        (t.chan ch).state = .offline ∧ (t.chan ch).reason = some .lineReset ∧ (t.chan ch).flow = false ∧
        (t.chan ch).run = none ∧ (t.chan ch).staged = none ∧ (t.chan ch).lastStatus = none ∧
        (t.chan ch).cancelPending = false ∧ (t.chan ch).stallTimer = none ∧
        Told t (.setterState ch .offline (some .lineReset) ((t.chan ch).job?.map Job.number)) ∧
        ((s.chan ch).job? = none → (t.chan ch).queue = (s.chan ch).queue) ∧
        ∀ j r, (s.chan ch).job? = some j → (s.chan ch).run = some r → JobLost s t ch j r .lineReset)

/-- SIGN ON, and code entry. A bad line or profile is refused BAD_ARGUMENT, a line of another role WRONG_ROLE, a session signed
on already NOT_PERMITTED. A DARK session signs on under the profile: it shows its opening basket, its code buffer is empty, its
blank timer starts, TERMINAL_SIGN is queued, and nothing else changes. In DARK a digit joins the code buffer; the fourth signs
the session on under the lowest-numbered profile of that code, or with none empties the buffer and shows "CODE?"; DEL-CHAR takes
the last digit away, and rings with none; every other key rings and the buffer is kept (R39, R65, R66, R67; OFF is in
SignOffEndsASession, and a key of no name in EntryKeysBeginAndEnd; that "CODE?" comes without a bell is the model's own
reading, log 47). -/
def Obligations.SignOnOpensADarkSession : Prop :=
  (∀ (s : Machine.State) (f : Frame) (line profile : Byte), Front s 0x07 f → f.body = [line, profile] →
    (lineOf line = none ∨ profileOf profile = none → Reaches (exec .signOn s) (s.answered f .badArgument [])) ∧
    ∀ l n, lineOf line = some l → profileOf profile = some n →
      (s.session? l = none → Reaches (exec .signOn s) (s.answered f .wrongRole [])) ∧
      (∀ ss, s.session? l = some ss → ss.state ≠ .dark → Reaches (exec .signOn s) (s.answered f .notPermitted [])) ∧
      ∀ ss, s.session? l = some ss → ss.state = .dark → RunsTo (exec .signOn s) fun t =>
        Replied s t f .done [] ∧ Told t (.terminalSign l (some n) .order) ∧
        t.sessionCore l = some (Session.core
          { ss with
            state := .directory, profile := some n, code := [],
            view := some { basket := s.profiles[n].openingBasket, top := 0, highlight := 0 }, edit := none,
            blankTimer := if s.term.blankTime = 0 then none else some s.term.blankTime,
            message := if s.profiles[n].openingBasket = none then some (ascii "NO BASKETS") else ss.message }) ∧
        (∀ m : LineNo, m ≠ l → t.sessionCore m = s.sessionCore m) ∧ t.store = s.store ∧ t.dir = s.dir ∧
        t.baskets = s.baskets ∧ t.fitQueue = s.fitQueue ∧ SameSettings s t ∧ SameLines s t ∧ SameChannels s t) ∧
  ∀ (s : Machine.State) (l : LineNo) (ss : Session) (rest : List Byte), s.session? l = some ss → ss.state = .dark →
    let taken : Session := { ss with fifo := rest, message := none }
    (∀ b, headKey ss.fifo = some (.text b, rest) → 0x30 ≤ b.toNat → b.toNat ≤ 0x39 →
      (ss.code.length < 3 → Reaches (exec (.textKey l.val) s) (s.setSession l { taken with code := ss.code ++ [b] })) ∧
      (∀ d1 d2 d3, ss.code = [d1, d2, d3] →
        let number := digitsValue [d1, d2, d3, b]
        ((∀ n : ProfileNo, s.profiles[n].code ≠ number) →
          Reaches (exec (.textKey l.val) s) (s.setSession l { taken with code := [], message := some (ascii "CODE?") })) ∧
        (∀ n : ProfileNo, s.profiles[n].code = number → (∀ m : ProfileNo, m < n → s.profiles[m].code ≠ number) →
          RunsTo (exec (.textKey l.val) s) fun t =>
            Told t (.terminalSign l (some n) .code) ∧
            t.sessionCore l = some (Session.core
              { taken with
                state := .directory, profile := some n, code := [],
                view := some { basket := s.profiles[n].openingBasket, top := 0, highlight := 0 }, edit := none,
                blankTimer := if s.term.blankTime = 0 then none else some s.term.blankTime,
                message := if s.profiles[n].openingBasket = none then some (ascii "NO BASKETS") else none }) ∧
            (∀ m : LineNo, m ≠ l → t.sessionCore m = s.sessionCore m) ∧ t.store = s.store ∧ t.dir = s.dir ∧
            t.baskets = s.baskets ∧ t.fitQueue = s.fitQueue ∧ SameSettings s t ∧ SameLines s t ∧ SameChannels s t))) ∧
    (headKey ss.fifo = some (.code 0x4B, rest) →
      (ss.code ≠ [] → Reaches (exec (.keyDelChar l.val) s) (s.setSession l { taken with code := ss.code.dropLast })) ∧
      (ss.code = [] → ReachesRinging (exec (.keyDelChar l.val) s) (s.setSession l taken) s l)) ∧
    (∀ b, headKey ss.fifo = some (.text b, rest) → b.toNat < 0x30 ∨ 0x39 < b.toNat →
      ReachesRinging (exec (.textKey l.val) s) (s.setSession l taken) s l) ∧
    (∀ row ∈ entryKeys, row.2 ≠ 0x4B → headKey ss.fifo = some (.code row.2, rest) →
      ReachesRinging (exec (row.1 l.val) s) (s.setSession l taken) s l) ∧
    (headKey ss.fifo = some (.code 0x5A, rest) →
      ReachesRinging (exec (.keyAck l.val) s) (s.setSession l taken) s l)

/-- SIGN OFF (R69), and the OFF key. The order is refused BAD_ARGUMENT for a line outside 0 to 39 and WRONG_ROLE for a line of
another role. A DARK session is answered DONE with nothing changed, and by the key rings; a session signed on signs off, with
cause ORDER or KEY (R64, R68). -/
def Obligations.SignOffEndsASession : Prop :=
  (∀ (s : Machine.State) (f : Frame) (line : Byte), Front s 0x08 f → f.body = [line] →
    (lineOf line = none → Reaches (exec .signOff s) (s.answered f .badArgument [])) ∧
    ∀ l, lineOf line = some l → s.session? l = none → Reaches (exec .signOff s) (s.answered f .wrongRole [])) ∧
  ∀ (s : Machine.State) (l : LineNo) (ss : Session), s.session? l = some ss →
    (∀ f line, Front s 0x08 f → f.body = [line] → lineOf line = some l →
      (ss.state = .dark → Reaches (exec .signOff s) (s.answered f .done [])) ∧
      (ss.state ≠ .dark → RunsTo (exec .signOff s) fun t => Replied s t f .done [] ∧ SignedOff s t l ss .order)) ∧
    (∀ rest, headKey ss.fifo = some (.code 0x5B, rest) →
      (ss.state = .dark →
        ReachesRinging (exec (.keyOff l.val) s) (s.setSession l { ss with fifo := rest, message := none }) s l) ∧
      (ss.state ≠ .dark → RunsTo (exec (.keyOff l.val) s) fun t => SignedOff s t l ss .key))

/-- TERMINAL MESSAGE places its text of 1 to 35 printable characters in the message area of the session named, or of every
session for line 0xFF, with row 0 marked and the bell rung on each. DISPLAY MODE puts the session in the mode named, the present
mode included, and its mode code pends, that of NORMAL for TEST. To enter or leave TEST and to leave BLANK marks every row, and to
leave BLANK sets cursor pending; the present mode marks no row, nor does a change between NORMAL and INVERSE or from them to BLANK,
in a state whose images show it. The order starts the blank timer when it sets NORMAL or INVERSE or wakes the session from BLANK
(R72, R73, R80 to R83, R87; that setting the present mode starts the blank timer is the model's own reading, log 30). -/
def Obligations.HostMessagesAndModes : Prop :=
  ∀ (s : Machine.State) (f : Frame),
    (∀ line text, Front s 0x09 f → f.body = line :: textBytes text → 1 ≤ text.length → text.length ≤ 35 →
      (∀ b ∈ text, 0x20 ≤ b.toNat ∧ b.toNat ≤ 0x7E) →
      (∀ l ss, line ≠ 0xFF → lineOf line = some l → s.session? l = some ss →
        ReachesWith (exec .terminalMessage s) ((s.setSession l { ss with message := some text }).answered f .done [])
          fun t => Rings s t l ∧ RowDirty t l 0) ∧
      (∀ l, line ≠ 0xFF → lineOf line = some l → s.session? l = none →
        Reaches (exec .terminalMessage s) (s.answered f .wrongRole [])) ∧
      (line = 0xFF →
        ReachesWith (exec .terminalMessage s)
          ((s.modSessions fun _ ss => { ss with message := some text }).answered f .done [])
          fun t => ∀ l ss, s.session? l = some ss → Rings s t l ∧ RowDirty t l 0)) ∧
    (∀ line code l mode ss, Front s 0x0A f → f.body = [line, code] → lineOf line = some l → dispModeOf code = some mode →
      s.session? l = some ss →
      let shows (m : DispMode) : ModeCode :=
        match m with
        | .normal | .test => .normal
        | .inverse => .inverse
        | .blank => .blank
      let sentAgain : Prop := mode ≠ ss.mode ∧ (ss.mode = .test ∨ mode = .test ∨ ss.mode = .blank)
      ReachesWith (exec .displayMode s)
        ((s.setSession l
          { ss with
            mode := mode
            blankTimer :=
              if mode = .normal ∨ mode = .inverse ∨ (ss.mode = .blank ∧ mode ≠ .blank) then
                if s.term.blankTime = 0 then none else some s.term.blankTime
              else ss.blankTimer }).answered f .done [])
        fun t =>
          ModePends t l (shows mode) ∧ (sentAgain → RowsMarked s t l) ∧
          (mode ≠ ss.mode → ss.mode = .blank → CursorPends t l) ∧
          (¬sentAgain → Settled s → ∀ r, RowDirty t l r → RowDirty s l r))

/-! ## Stories, by order -/

/-- STORY CREATE with legal fields takes the lowest FREE record, or with none FREE the record that a purge of SPIKE's head frees,
its blocks free, its fit request dropped and its generation advanced; with neither it is refused DIRECTORY_FULL. Either way the
story stands OPEN in the basket, its home, at the tail of its band with an empty chain and no depth, STORY_ARRIVED is queued, and
the reply gives its key (R11, R14, R18 to R20, R26, R27, R182). -/
def Obligations.StoryCreateTakesARecord : Prop :=
  ∀ (s : Machine.State) (f : Frame) (slug : List Byte) (fb bb pb : Byte) (fmt : FormatNo) (b : BasketNo) (p : Prio),
    Front s 0x10 f → f.body = textBytes slug ++ [fb, bb, pb] → validName 16 slug = true → formatOf fb = some fmt →
    basketOf bb = some b → b.val ≤ 22 → prioOf pb = some p →
    let made : Story :=
      { slug := slug, prio := p, origin := .order, home := b, place := .opn b, reviewers := [], format := fmt, chain := [],
        count := 0, depth := none, setCount := 0, route := [], truncated := false, overset := false }
    (∀ sid, s.lowestFreeRecord = some sid → RunsTo (exec .storyCreate s) fun t =>
      Replied s t f .done (keyBytes (s.keyOf sid)) ∧
      HasStory s t sid made ∧ SameRecords s t sid ∧ t.stories b = bandedIn t sid (s.stories b) ∧ SameBaskets s t [b] ∧
      t.store = s.store ∧ t.fitQueue = s.fitQueue ∧ Told t (.storyArrived (s.keyOf sid) b p) ∧ SameElsewhere s t) ∧
    (∀ head more, s.lowestFreeRecord = none → s.stories spikeBasket = head :: more →
      let gen := (s.dir[head].gen + 1) % 256
      RunsTo (exec .storyCreate s) fun t =>
        Replied s t f .done (keyBytes { sid := head, gen := gen }) ∧ t.dir[head] = { gen := gen, story := some made } ∧
        SameRecords s t head ∧ t.store = s.store.filter (fun x => !(s.chainOf head).contains x.1) ∧ t.fitting head = false ∧
        (DirectoryForm s → t.stories spikeBasket = more ∧ t.stories b = bandedIn t head (s.stories b) ∧
          SameBaskets s t [b, spikeBasket]) ∧
        Told t (.storyPurged (s.keyOf head)) ∧ Told t (.storyArrived { sid := head, gen := gen } b p) ∧ SameElsewhere s t) ∧
    (s.lowestFreeRecord = none → s.stories spikeBasket = [] →
      Reaches (exec .storyCreate s) (s.answered f .directoryFull []))

/-- STORY APPEND of cells to an OPEN story, when the store grants its blocks without reclaim: the text is the old text and then
the cells, marks in range; the count and the stale flag follow, and the screens of the story's reviewers; an active fit of the story is
spoiled; blocks of other stories keep their cells; the reply gives the key and the count. When the reserve of 64 free blocks would not be kept, the head
of SPIKE is purged first, here with blocks enough for the request. A story whose chain would pass 192 blocks is refused
STORE_FULL with cause SIZE LIMIT, and one that cannot keep the reserve with SPIKE empty with cause NO SPACE, and no text
changes. An order whose cells are all dropped marks is answered with the count as it stands and changes nothing (R2, R8, R10,
R11, R21, R96, R152, R183; that a change which needs no block makes no request, and so succeeds whatever the free count, is the
model's own reading, log 17). -/
def Obligations.StoryAppendAddsTheCells : Prop :=
  (∀ (s : Machine.State) (f : Frame) (n1 n2 gen c1 c2 : Byte) (rest : List Byte) (cells : List Cell) (sid : Sid) (st : Story)
    (b : BasketNo),
    Front s 0x11 f → f.body = n1 :: n2 :: gen :: c1 :: c2 :: rest → 1 ≤ ofBE16 c1 c2 → ofBE16 c1 c2 ≤ 512 →
    parseCells (ofBE16 c1 c2) rest = some cells → cells ≠ [] → Names s n1 n2 gen sid st → st.place = .opn b →
    StoreForm s → ChainForm s sid →
    let need := (cells.length - (if st.chain = [] then 0 else 64 - (blockCells s.store (st.chain.getLastD 0)).length) + 63) / 64
    (st.chain.length + need ≤ 192 → need = 0 ∨ need + 64 ≤ s.freeBlockCount → RunsTo (exec .storyAppend s) fun t =>
      Replied s t f .done (keyBytes (s.keyOf sid) ++ be16 (s.text sid ++ cells).length) ∧
      t.text sid = s.text sid ++ cells.map Cell.clamped ∧
      (∃ chain, HasStory s t sid
        { st with
          chain := chain, count := (s.text sid ++ cells).length,
          depth := st.depth.map fun d => { d with stale := true } }) ∧
      ReviewersFollow s t sid (s.text sid).length 0 cells.length ∧ Spoils s t sid ∧
      OtherBlocksKept s t sid ∧ SameRecords s t sid ∧ SameBaskets s t [] ∧ SameElsewhere s t) ∧
    (0 < need → 192 < st.chain.length + need → Reaches (exec .storyAppend s) (s.answered f .storeFull [0])) ∧
    (0 < need → st.chain.length + need ≤ 192 → s.freeBlockCount < need + 64 → s.stories spikeBasket = [] →
      Reaches (exec .storyAppend s) (s.answered f .storeFull [1])) ∧
    (∀ head more, DirectoryForm s → s.stories spikeBasket = head :: more → 0 < need → st.chain.length + need ≤ 192 →
      s.freeBlockCount < need + 64 → need + 64 ≤ s.freeBlockCount + (s.chainOf head).length →
      RunsTo (exec .storyAppend s) fun t =>
        Replied s t f .done (keyBytes (s.keyOf sid) ++ be16 (s.text sid ++ cells).length) ∧
        t.text sid = s.text sid ++ cells.map Cell.clamped ∧
        t.dir[head] = { gen := (s.dir[head].gen + 1) % 256, story := none } ∧ t.stories spikeBasket = more ∧
        ((∀ e ∈ s.fitQueue, e.key.sid ≠ head) → Spoils s t sid) ∧
        Told t (.storyPurged (s.keyOf head)) ∧ SameElsewhere s t)) ∧
  ∀ (s : Machine.State) (f : Frame) (n1 n2 gen c1 c2 : Byte) (rest : List Byte) (sid : Sid) (st : Story) (b : BasketNo),
    Front s 0x11 f → f.body = n1 :: n2 :: gen :: c1 :: c2 :: rest → 1 ≤ ofBE16 c1 c2 → ofBE16 c1 c2 ≤ 512 →
    parseCells (ofBE16 c1 c2) rest = some [] → Names s n1 n2 gen sid st → st.place = .opn b →
    Reaches (exec .storyAppend s) (s.answered f .done (keyBytes (s.keyOf sid) ++ be16 st.count))

/-- STORY READ answers with the key, the count, the first offset and the cells from it that fit in the reply; STORY INFO with
every field of the record in the order of R14's table, the format's name after its number and the chain's length after the
count, the route history newest first; DIRECTORY with the basket's name, its length and the entries that fit. None of them
changes anything (R14, R36, R184, R185, R189, R190; that the reply's own two bytes count in its 1,024 is the model's own
choice, log 31; in STORY INFO the bytes that R189 does not give are free values, the widths of the depth's parts, the two bytes
of the flags and the byte 0xFF of a mover that is ORDER are the model's own reading, log 21, and so are the values 1 and 0 of a
presence byte, log 57, and that current basket, holder and job reference take one as the depth does is its own choice, log 58;
in DIRECTORY the bytes of a depth that is absent or stale are its own choice, log 44). -/
def Obligations.ReadingOrdersChangeNothing : Prop :=
  ∀ (s : Machine.State) (f : Frame),
    (∀ n1 n2 gen o1 o2 c1 c2 sid st, Front s 0x12 f → f.body = [n1, n2, gen, o1, o2, c1, c2] → 1 ≤ ofBE16 c1 c2 →
      ofBE16 c1 c2 ≤ 512 → Names s n1 n2 gen sid st →
      Reaches (exec .storyRead s)
        (s.answered f .done
          (let cells := cellsThatFit 1013 (((s.text sid).drop (ofBE16 o1 o2)).take (ofBE16 c1 c2))
           keyBytes (s.keyOf sid) ++ be16 st.count ++ [o1, o2] ++ be16 cells.length ++ cells.flatMap Cell.encoded))) ∧
    (∀ n1 n2 gen sid st, Front s 0x13 f → f.body = [n1, n2, gen] → Names s n1 n2 gen sid st →
      Reaches (exec .storyInfo s)
        (s.answered f .done
          (let present (absent : Nat) (field : Option (List Byte)) :=
            field.elim (0 :: List.replicate absent 0xFF) (1 :: ·)
           let origin : Nat × List Byte :=
            match st.origin with
            | .terminal l => (0, [byte8 l.val])
            | .wire l service item => (1, [byte8 l.val, service] ++ be16 item)
            | .order => (2, [])
           let place : Nat × Option (List Byte) × Option (List Byte) × Option (List Byte) :=
            match st.place with
            | .intake => (1, none, none, none)
            | .opn b => (2, some [byte8 b.val], none, none)
            | .held l => (3, none, some [byte8 l.val], none)
            | .queued ch n => (4, none, none, some (byte8 (chanIndex ch) :: be16 n))
            | .setting ch n => (5, none, none, some (byte8 (chanIndex ch) :: be16 n))
            | .killed => (6, some [23], none, none)
           let list (which : Nat) (entries : List (List Byte)) :=
            Config.storyInfoListHead which entries.length ++ entries.flatten ++ Config.storyInfoListTail which entries.length
           let name := s.formats[st.format].name
           be16 (sid.val + 1) ++ [byte8 s.dir[sid].gen, byte8 place.1] ++ (byte8 st.slug.length :: st.slug) ++
            [byte8 ([Prio.routine, .urgent, .flash].idxOf st.prio + 1)] ++
            (Config.storyInfoOriginKind origin.1 ++ origin.2 ++ Config.storyInfoOriginRest origin.1) ++ [byte8 st.home.val] ++
            present 1 place.2.1 ++ present 1 place.2.2.1 ++ list 0 (st.reviewers.map fun l => [byte8 l.val]) ++
            present 3 place.2.2.2 ++ [byte8 st.format.val] ++ (byte8 name.length :: name) ++ Config.storyInfoChain st.chain ++
            be16 st.count ++ be16 st.chain.length ++
            present 11 (st.depth.map fun d =>
              be16 d.halfPoints ++ be16 d.lines ++ [flagByte d.stale] ++ be16 d.loose ++ be16 d.overlong ++ be16 d.missing) ++
            [byte8 st.setCount] ++
            list 1 (st.route.map fun m => [byte8 m.source.val, byte8 m.target.val, m.mover.elim 0xFF fun l => byte8 l.val]) ++
            [flagByte st.truncated, flagByte st.overset]))) ∧
    (∀ bb s1 s2 count b, Front s 0x14 f → f.body = [bb, s1, s2, count] → basketOf bb = some b → 1 ≤ count.toNat →
      count.toNat ≤ 64 →
      Reaches (exec .directory s)
        (s.answered f .done
          (let entry (sid : Sid) : List Byte :=
            (s.story? sid).elim [] fun st =>
              be16 (sid.val + 1) ++ [byte8 s.dir[sid].gen] ++ (byte8 st.slug.length :: st.slug) ++
                [byte8 ([Prio.routine, .urgent, .flash].idxOf st.prio + 1),
                  match st.place with
                  | .intake => 1
                  | .opn _ => 2
                  | .held _ => 3
                  | .queued .. => 4
                  | .setting .. => 5
                  | .killed => 6] ++ be16 st.count ++
                st.depth.elim [0xFF, 0xFF, 0xFF, 0xFF, 2] (fun d => be16 d.halfPoints ++ be16 d.lines ++ [flagByte d.stale]) ++
                [byte8 st.route.length, byte8 st.reviewers.length]
           let entries := entriesThatFit (1018 - s.baskets[b].name.length)
            ((((s.stories b).drop (ofBE16 s1 s2)).take count.toNat).map entry)
           byte8 s.baskets[b].name.length :: s.baskets[b].name ++ be16 (s.stories b).length ++ [byte8 entries.length] ++
            entries.flatten)))

/-- MOVE of an OPEN story to another basket takes it out of the one and into the other at the tail of its band, with the
target its home and one move at the front of its route history, and, where the basket's name is another, marks row 0 on its
reviewers; to its own basket it is answered DONE with nothing changed.
A HELD story is refused STORY_HELD without force; with force it comes OPEN to the target and its reviewers are dropped. Its holder
in EDIT and its reviewers in REVIEW return to DIRECTORY, and a holder in another state keeps it; each has the message "TAKEN BY
DESK", which the alert of the story's entry removes from a session that takes it. INTAKE is refused STORY_HELD, QUEUED and SETTING
STORY_IN_SET, and KILLED STORY_KILLED (R22, R28, R30 to R32, R40, R72, R84, R108; that the alert comes behind the message is the
order of R32's steps). -/
def Obligations.MoveTakesAStoryToItsTarget : Prop :=
  ∀ (s : Machine.State) (f : Frame) (n1 n2 gen bb fb : Byte) (sid : Sid) (st : Story) (target : BasketNo) (force : Bool),
    Front s 0x15 f → f.body = [n1, n2, gen, bb, fb] → Names s n1 n2 gen sid st → basketOf bb = some target →
    target.val ≤ 22 → parseFlag fb = some force →
    let alerted (ss : Session) : Prop :=
      st.prio ≠ .routine ∧ ss.state ≠ .dark ∧ (∃ n, ss.profile = some n ∧ inMask s.profiles[n].watch target = true) ∧
        ∀ own, ss.alert = some own → own.prio.rank ≤ st.prio.rank
    let taken (ss ss' : Session) : Prop :=
      (¬alerted ss → ss'.message = some (ascii "TAKEN BY DESK") ∧ ss'.alert = ss.alert) ∧
      (alerted ss → ss'.message = none ∧ ss'.alert = some { basket := target, sid := sid, prio := st.prio })
    (st.place = .opn target → Reaches (exec .move s) (s.answered f .done [])) ∧
    (∀ b : BasketNo, st.place = .opn b → b ≠ target → RunsTo (exec .move s) fun t =>
      Replied s t f .done [] ∧
      HasStory s t sid
        { st with
          place := .opn target, home := target,
          route := ({ source := b, target := target, mover := none } :: st.route).take 4 } ∧
      t.stories b = (s.stories b).filter (· != sid) ∧ t.stories target = bandedIn t sid (s.stories target) ∧
      SameBaskets s t [b, target] ∧ SameRecords s t sid ∧ t.store = s.store ∧ t.fitQueue = s.fitQueue ∧
      Told t (.storyArrived (s.keyOf sid) target st.prio) ∧ SameElsewhere s t ∧
      (s.baskets[b].name ≠ s.baskets[target].name →
        ∀ m ∈ st.reviewers, ∀ sm, s.session? m = some sm → RowDirty t m 0)) ∧
    (∀ holder, st.place = .held holder → force = false → Reaches (exec .move s) (s.answered f .storyHeld [])) ∧
    (∀ holder, st.place = .held holder → force = true → RunsTo (exec .move s) fun t =>
      Replied s t f .done [] ∧
      HasStory s t sid
        { st with
          place := .opn target, home := target, reviewers := [],
          route :=
            if st.home = target then st.route
            else ({ source := st.home, target := target, mover := none } :: st.route).take 4 } ∧
      t.stories target = bandedIn t sid (s.stories target) ∧ SameBaskets s t [target] ∧ SameRecords s t sid ∧
      t.store = s.store ∧ t.fitQueue = s.fitQueue ∧
      (∀ ss, s.session? holder = some ss → ∃ ss', t.session? holder = some ss' ∧ taken ss ss' ∧
        (ss.state = .edit → ss'.state = .directory ∧ ss'.edit = none) ∧
        (ss.state ≠ .edit → holder ∉ st.reviewers → ss'.state = ss.state ∧ ss'.edit = ss.edit)) ∧
      (∀ l ∈ st.reviewers, ∀ ss, s.session? l = some ss → ss.state = .review → ss.shows sid = true →
        ∃ ss', t.session? l = some ss' ∧ taken ss ss' ∧ ss'.state = .directory ∧ ss'.edit = none) ∧
      Told t (.storyArrived (s.keyOf sid) target st.prio) ∧ SameElsewhere s t) ∧
    (st.place = .intake → Reaches (exec .move s) (s.answered f .storyHeld [])) ∧
    (∀ ch n, st.place = .queued ch n ∨ st.place = .setting ch n → Reaches (exec .move s) (s.answered f .storyInSet [])) ∧
    (st.place = .killed → Reaches (exec .move s) (s.answered f .storyKilled []))

/-- PRIORITY of an OPEN story gives it the new priority and the tail of its new band; of a HELD, QUEUED, SETTING or KILLED
story it changes the priority alone; an equal priority in a basket changes nothing; in INTAKE it is refused. A priority raised
in a basket offers an alert of the new priority to every signed-on session that watches it, which takes it in place of one no
higher, a FLASH one waking a blanked screen, and one lowered changes no session (R26, R29, R40, R41, R82, R84). -/
def Obligations.PriorityMovesAStoryInItsBasket : Prop :=
  ∀ (s : Machine.State) (f : Frame) (n1 n2 gen pb : Byte) (sid : Sid) (st : Story) (p : Prio),
    Front s 0x16 f → f.body = [n1, n2, gen, pb] → Names s n1 n2 gen sid st → prioOf pb = some p →
    (∀ b : BasketNo, st.place = .opn b → b.val ≤ 22 → p ≠ st.prio → RunsTo (exec .priority s) fun t =>
      Replied s t f .done [] ∧ HasStory s t sid { st with prio := p } ∧
      t.stories b = bandedIn t sid ((s.stories b).filter (· != sid)) ∧ SameBaskets s t [b] ∧ SameRecords s t sid ∧
      (st.prio.rank < p.rank → AlertOffered s t { basket := b, sid := sid, prio := p } none) ∧
      (p.rank < st.prio.rank → ∀ l, t.sessionCore l = s.sessionCore l) ∧
      t.store = s.store ∧ t.fitQueue = s.fitQueue ∧ t.host = (s.answered f .done []).portOut ∧ SameElsewhere s t) ∧
    (∀ b : BasketNo, st.place = .opn b → p = st.prio → Reaches (exec .priority s) (s.answered f .done [])) ∧
    (st.place.basket? = none ∧ st.place ≠ .intake ∨ st.place = .killed →
      Reaches (exec .priority s)
        ({ s with dir := s.dir.set sid { gen := s.dir[sid].gen, story := some { st with prio := p } } }.answered f .done [])) ∧
    (st.place = .intake → Reaches (exec .priority s) (s.answered f .storyHeld []))

/-- What a kill does to an OPEN story, by the KILL order: it leaves its basket for the tail of SPIKE, its reviewers are
dropped and their sessions in REVIEW return to DIRECTORY, its fit request is dropped, its home and text are kept, the alerts that
name it in its basket clear, and STORY_KILLED is queued. A story in any other state is refused by its state (R28, R33, R41, R108,
R153). -/
def Obligations.KillSendsAStoryToSpike : Prop :=
  ∀ (s : Machine.State) (f : Frame) (n1 n2 gen : Byte) (sid : Sid) (st : Story), Front s 0x17 f → f.body = [n1, n2, gen] →
    Names s n1 n2 gen sid st →
    (∀ b : BasketNo, st.place = .opn b → b.val ≤ 22 → RunsTo (exec .kill s) fun t =>
      Replied s t f .done [] ∧ HasStory s t sid { st with place := .killed, reviewers := [] } ∧
      t.stories b = (s.stories b).filter (· != sid) ∧ t.stories spikeBasket = s.stories spikeBasket ++ [sid] ∧
      SameBaskets s t [b, spikeBasket] ∧ SameRecords s t sid ∧ t.store = s.store ∧ t.fitting sid = false ∧
      (∀ l ∈ st.reviewers, ∀ ss, s.session? l = some ss → ss.state = .review → ss.shows sid = true →
        ∃ ss', t.session? l = some ss' ∧ ss'.state = .directory ∧ ss'.message = some (ascii "KILLED")) ∧
      AlertsCleared s t b sid ∧ Told t (.storyKilled (s.keyOf sid)) ∧ SameElsewhere s t) ∧
    (∀ l, st.place = .intake ∨ st.place = .held l → Reaches (exec .kill s) (s.answered f .storyHeld [])) ∧
    (∀ ch n, st.place = .queued ch n ∨ st.place = .setting ch n → Reaches (exec .kill s) (s.answered f .storyInSet [])) ∧
    (st.place = .killed → Reaches (exec .kill s) (s.answered f .storyKilled []))

/-- UNKILL (R34): a KILLED story leaves SPIKE and is OPEN in its home basket at the tail of its band, with no entry in its
route history; a FLASH or URGENT story offers an alert to every signed-on session that watches the basket, which takes it, in
place of the one it shows, unless that has a higher priority, and a FLASH one wakes a blanked screen (R40, R82, R84). A story in
any other state is refused by its state. -/
def Obligations.UnkillBringsAStoryHome : Prop :=
  ∀ (s : Machine.State) (f : Frame) (n1 n2 gen : Byte) (sid : Sid) (st : Story), Front s 0x18 f → f.body = [n1, n2, gen] →
    Names s n1 n2 gen sid st →
    (st.place = .killed → st.home.val ≤ 22 → RunsTo (exec .unkill s) fun t =>
      Replied s t f .done [] ∧ HasStory s t sid { st with place := .opn st.home } ∧
      t.stories spikeBasket = (s.stories spikeBasket).filter (· != sid) ∧
      t.stories st.home = bandedIn t sid (s.stories st.home) ∧ SameBaskets s t [st.home, spikeBasket] ∧
      SameRecords s t sid ∧ t.store = s.store ∧ t.fitQueue = s.fitQueue ∧
      (st.prio ≠ .routine → AlertOffered s t { basket := st.home, sid := sid, prio := st.prio } none) ∧
      Told t (.storyArrived (s.keyOf sid) st.home st.prio) ∧ SameElsewhere s t) ∧
    (∀ l, st.place = .intake ∨ st.place = .held l → Reaches (exec .unkill s) (s.answered f .storyHeld [])) ∧
    (∀ ch n, st.place = .queued ch n ∨ st.place = .setting ch n → Reaches (exec .unkill s) (s.answered f .storyInSet [])) ∧
    (∀ b, st.place = .opn b → Reaches (exec .unkill s) (s.answered f .badArgument []))

/-- PURGE of one KILLED story frees its record: its blocks are free, it leaves SPIKE, its generation advances, wrapping from
255 to 0, and STORY_PURGED is queued with its old key. PURGE of all frees every story of SPIKE and answers with their count.
A story in any other state is refused by its state (R18, R20, R34, R35; that PURGE of one answers the count 1 is the model's
own reading, log 43). -/
def Obligations.PurgeFreesKilledStories : Prop :=
  ∀ (s : Machine.State) (f : Frame),
    (∀ n1 n2 gen sid st, Front s 0x19 f → f.body = [0, n1, n2, gen] → Names s n1 n2 gen sid st →
      (st.place = .killed → RunsTo (exec .purge s) fun t =>
        Replied s t f .done (be16 1) ∧ t.dir[sid] = { gen := (s.dir[sid].gen + 1) % 256, story := none } ∧
        t.store = s.store.filter (fun x => !st.chain.contains x.1) ∧
        t.stories spikeBasket = (s.stories spikeBasket).filter (· != sid) ∧ SameBaskets s t [spikeBasket] ∧
        SameRecords s t sid ∧ t.fitting sid = false ∧ Told t (.storyPurged (s.keyOf sid)) ∧ SameElsewhere s t) ∧
      (∀ l, st.place = .intake ∨ st.place = .held l → Reaches (exec .purge s) (s.answered f .storyHeld [])) ∧
      (∀ ch n, st.place = .queued ch n ∨ st.place = .setting ch n → Reaches (exec .purge s) (s.answered f .storyInSet [])) ∧
      (∀ b, st.place = .opn b → Reaches (exec .purge s) (s.answered f .badArgument []))) ∧
    (∀ n1 n2 gen, Front s 0x19 f → f.body = [1, n1, n2, gen] →
      (∀ sid ∈ s.stories spikeBasket, (s.story? sid).map Story.place = some .killed) → (s.stories spikeBasket).Nodup →
      RunsTo (exec .purge s) fun t =>
        Replied s t f .done (be16 (s.stories spikeBasket).length) ∧ t.stories spikeBasket = [] ∧
        (∀ sid ∈ s.stories spikeBasket, t.story? sid = none) ∧
        (∀ sid, sid ∉ s.stories spikeBasket → t.dir[sid] = s.dir[sid]) ∧ SameBaskets s t [spikeBasket] ∧ SameElsewhere s t)

/-! ## Fitting and setting, by order -/

/-- FIT of a story that is OPEN, HELD, QUEUED or SETTING is answered TAKEN: with no entry for it a waiting entry joins the
queue, and the idle fitter takes it at once with clear flags, the story's format and the width tables as they stand; an entry
that is there takes the request, and repeats if its fit is outdated. The event that queues the story marks row 0 on its holder
and its reviewers. A full queue is refused QUEUE_FULL, and INTAKE and KILLED by their state (R72, R130, R149, R150, R151). -/
def Obligations.FitOrderQueuesTheStory : Prop :=
  ∀ (s : Machine.State) (f : Frame) (n1 n2 gen : Byte) (sid : Sid) (st : Story), Front s 0x20 f → f.body = [n1, n2, gen] →
    Names s n1 n2 gen sid st →
    (st.place ≠ .intake → st.place ≠ .killed →
      (s.fitQueue = [] →
        ReachesWith (exec .fit s)
          (State.answered f .taken [] { s with
            fitQueue :=
              [{ key := s.keyOf sid,
                 active := some
                   { spoiled := false, outdated := false, again := false, formatNo := st.format,
                     format := s.formats[st.format], widths := s.widths, fitter := Fitter.start } }] })
          fun t => ShownMarked s t sid) ∧
      (∀ e more, s.fitQueue = e :: more → e.active.isSome = true → s.fitting sid = false → s.fitQueue.length < 16 →
        ReachesWith (exec .fit s)
          (State.answered f .taken []
            { s with fitQueue := s.fitQueue ++ [{ key := s.keyOf sid, active := none }] })
          fun t => ShownMarked s t sid) ∧
      (s.fitting sid = true →
        Reaches (exec .fit s)
          (State.answered f .taken [] { s with
            fitQueue := s.fitQueue.map fun e =>
              if e.key.sid = sid then
                { e with active := e.active.map fun r => if r.outdated then { r with again := true } else r }
              else e })) ∧
      (s.fitting sid = false → 16 ≤ s.fitQueue.length → Reaches (exec .fit s) (s.answered f .queueFull []))) ∧
    (st.place = .intake → Reaches (exec .fit s) (s.answered f .storyHeld [])) ∧
    (st.place = .killed → Reaches (exec .fit s) (s.answered f .storyKilled []))

/-- SET STORY and SET PAGE on an OPEN story: with fewer than 32 jobs the order is answered TAKEN with the job's reference; the
story leaves its basket; the counter steps from 65,535 to 1; and the job joins the queue, a rush job behind the running job
and the rush jobs that wait. On an OFFLINE, RUNNING or PAUSED channel the story is QUEUED, and a job that runs there is not
disturbed. On an IDLE channel the job at the head of the queue as it then stands starts at once: its stories are SETTING with
their reviewers dropped, the channel is RUNNING and JOB START is on its way; that job is the new one where none waits, and
otherwise the new job's story is QUEUED, unless a rush job passed those that wait. A full queue is
refused QUEUE_FULL, and a story that is not OPEN by its state. SET PAGE of 1 to 16 segments, all of them OPEN stories and none
named twice, does the same to every story of the page at once; a count outside 1 to 16 or a measure override neither 0 nor 72 to
360 is refused BAD_ARGUMENT naming no segment; and the first segment to fail a check of its own refuses the whole order with its
position and key, by the key, as a story named before, or by the story's state (R18, R158 to R161, R164; that a running job waits
for an event, a premise here, is kept by every step, EveryStepKeepsTheStore). -/
def Obligations.SetOrdersAcceptAJob : Prop :=
  (∀ (j : Job) (front back : List Job), (∀ x ∈ front, x.running = true ∨ x.rush = true) →
    (∀ x ∈ back.head?, x.running = false ∧ x.rush = false) →
    (j.rush = false → enqueueJob j (front ++ back) = front ++ back ++ [j]) ∧
    (j.rush = true → enqueueJob j (front ++ back) = front ++ j :: back)) ∧
  (∀ (s : Machine.State) (f : Frame) (cb rb ab n1 n2 gen : Byte) (more : List Byte) (ch : Chan) (rush : Bool)
    (after : Option BasketNo) (sid : Sid) (st : Story) (page : Bool) (seg : Segment) (c : Instr),
    chanOf cb = some ch → parseFlag rb = some rush → Names s n1 n2 gen sid st →
    (c = .setStory ∧ Front s 0x21 f ∧ f.body = [n1, n2, gen, cb, rb, ab] ∧ page = false ∧
        seg = { key := s.keyOf sid, measure := 0, depth := 0, column := 0, top := 0 } ∧
        ((ab = 0xFF ∧ after = some st.home) ∨ (ab.toNat ≤ 22 ∧ after.isSome = true ∧ after = basketOf ab)) ∨
      c = .setPage ∧ Front s 0x22 f ∧ f.body = cb :: rb :: 1 :: n1 :: n2 :: gen :: more ∧ page = true ∧ after = none ∧
        ∃ m1 m2 d1 d2 x1 x2 y1 y2, more = [m1, m2, d1, d2, x1, x2, y1, y2] ∧ measureOk (ofBE16 m1 m2) = true ∧
          seg = { key := s.keyOf sid, measure := ofBE16 m1 m2, depth := ofBE16 d1 d2, column := ofBE16 x1 x2,
                  top := ofBE16 y1 y2 }) →
    let job : Job := { number := (s.chan ch).counter, page := page, rush := rush, queuer := none, after := after,
                       segments := [seg], running := false }
    let next := if (s.chan ch).counter = 65535 then 1 else (s.chan ch).counter + 1
    let refused (r : Res) : Prop := Reaches (exec c s) (s.answered f r (if page then [1, n1, n2, gen] else []))
    (∀ l, st.place = .intake ∨ st.place = .held l → refused .storyHeld) ∧
    (∀ ch n, st.place = .queued ch n ∨ st.place = .setting ch n → refused .storyInSet) ∧
    (st.place = .killed → refused .storyKilled) ∧
    ∀ b : BasketNo, st.place = .opn b →
    (32 ≤ (s.chan ch).queue.length → Reaches (exec c s) (s.answered f .queueFull [])) ∧
    ((s.chan ch).queue.length < 32 → (s.chan ch).state ≠ .idle → s.jobAtRest ch → RunsTo (exec c s) fun t =>
      Replied s t f .taken (chanByte ch :: be16 (s.chan ch).counter) ∧
      HasStory s t sid { st with place := .queued ch (s.chan ch).counter } ∧
      t.stories b = (s.stories b).filter (· != sid) ∧ SameBaskets s t [b] ∧ SameRecords s t sid ∧ t.store = s.store ∧
      t.chan ch = { s.chan ch with counter := next, queue := enqueueJob job (s.chan ch).queue } ∧
      (∀ other, other ≠ ch → t.chan other = s.chan other) ∧ SameLines s t ∧ SameSettings s t) ∧
    ((s.chan ch).queue = [] → (s.chan ch).state = .idle → RunsTo (exec c s) fun t =>
      Replied s t f .taken (chanByte ch :: be16 (s.chan ch).counter) ∧
      HasStory s t sid { st with place := .setting ch (s.chan ch).counter, reviewers := [] } ∧
      (t.chan ch).state = .running ∧ (t.chan ch).queue = [{ job with running := true }] ∧ (t.chan ch).counter = next ∧
      (∃ r rest, (t.chan ch).run = some r ∧ r.phase = .placing (.jobStart (s.chan ch).counter) rest ∧
        r.params = (s.chan ch).params ∧ r.widths = s.widths ∧
        r.formats = [if seg.measure = 0 then s.formats[st.format] else { s.formats[st.format] with measure := seg.measure }]) ∧
      t.stories b = (s.stories b).filter (· != sid) ∧ SameBaskets s t [b] ∧ SameRecords s t sid ∧ t.store = s.store ∧
      (∀ other, other ≠ ch → t.chan other = s.chan other) ∧ SameLines s t ∧ SameSettings s t) ∧
    (∀ head rest, (s.chan ch).queue.length < 32 → (s.chan ch).state = .idle → enqueueJob job (s.chan ch).queue = head :: rest →
      DirectoryForm s → RunsTo (exec c s) fun t =>
        Replied s t f .taken (chanByte ch :: be16 (s.chan ch).counter) ∧ JobStarted s t ch head rest [] ∧
        (head ≠ job → HasStory s t sid { st with place := .queued ch (s.chan ch).counter }) ∧ (t.chan ch).counter = next ∧
        (∀ x : Sid, x ≠ sid → (∀ g ∈ head.segments, g.key.sid ≠ x) → t.dir[x] = s.dir[x]) ∧
        t.stories b = (s.stories b).filter (· != sid) ∧ SameBaskets s t [b] ∧ t.store = s.store ∧
        (∀ other, other ≠ ch → t.chan other = s.chan other) ∧ SameLines s t ∧ SameSettings s t)) ∧
  (∀ (s : Machine.State) (f : Frame) (cb rb n1 n2 gen : Byte) (before after : List Segment) (g : Segment),
    (chanOf cb).isSome = true → (parseFlag rb).isSome = true → Front s 0x22 f →
    f.body = cb :: rb :: byte8 (before.length + 1 + after.length) ::
      (before.flatMap Segment.bytes ++ n1 :: n2 :: gen :: g.bytes.drop 3 ++ after.flatMap Segment.bytes) →
    before.length + 1 + after.length ≤ 16 → (∀ x ∈ before ++ g :: after, x.Fits ∧ x.MeasureLegal) →
    (∀ x ∈ before, x.IsOpen s) → StoriesApart before → ofBE16 n1 n2 = 0 ∨ 512 < ofBE16 n1 n2 →
    Reaches (exec .setPage s) (s.answered f .noSuchStory [byte8 (before.length + 1), n1, n2, gen])) ∧
  ∀ (s : Machine.State) (f : Frame) (cb rb : Byte) (ch : Chan) (rush : Bool) (segs : List Segment), chanOf cb = some ch →
    parseFlag rb = some rush → Front s 0x22 f → f.body = cb :: rb :: byte8 segs.length :: segs.flatMap Segment.bytes →
    segs.length ≤ 255 → (∀ g ∈ segs, g.Fits) →
    let job : Job := { number := (s.chan ch).counter, page := true, rush := rush, queuer := none, after := none,
                       segments := segs, running := false }
    let next := if (s.chan ch).counter = 65535 then 1 else (s.chan ch).counter + 1
    let inRange := 1 ≤ segs.length ∧ segs.length ≤ 16 ∧ ∀ g ∈ segs, g.MeasureLegal
    (¬inRange → Reaches (exec .setPage s) (s.answered f .badArgument [])) ∧
    (∀ before g after, inRange → segs = before ++ g :: after → (∀ x ∈ before, x.IsOpen s) → StoriesApart before →
      let refused (r : Res) : Prop :=
        Reaches (exec .setPage s) (s.answered f r (byte8 (before.length + 1) :: keyBytes g.key))
      (s.story? g.key.sid = none → refused .noSuchStory) ∧
      ((s.story? g.key.sid).isSome = true → s.dir[g.key.sid].gen ≠ g.key.gen → refused .staleKey) ∧
      ∀ st, s.live? g.key = some st →
        ((∃ x ∈ before, x.key.sid = g.key.sid) → refused .badArgument) ∧
        ((∀ x ∈ before, x.key.sid ≠ g.key.sid) →
          (∀ l, st.place = .intake ∨ st.place = .held l → refused .storyHeld) ∧
          (∀ ch n, st.place = .queued ch n ∨ st.place = .setting ch n → refused .storyInSet) ∧
          (st.place = .killed → refused .storyKilled))) ∧
    (inRange → (∀ g ∈ segs, g.IsOpen s) → StoriesApart segs →
      (32 ≤ (s.chan ch).queue.length → Reaches (exec .setPage s) (s.answered f .queueFull [])) ∧
      ((s.chan ch).queue.length < 32 → (s.chan ch).state ≠ .idle → DirectoryForm s → RunsTo (exec .setPage s) fun t =>
        Replied s t f .taken (chanByte ch :: be16 (s.chan ch).counter) ∧
        (∀ g ∈ segs, ∀ st, s.story? g.key.sid = some st →
          HasStory s t g.key.sid { st with place := .queued ch (s.chan ch).counter }) ∧
        (∀ sid : Sid, (∀ g ∈ segs, g.key.sid ≠ sid) → t.dir[sid] = s.dir[sid]) ∧
        (∀ b, t.stories b = (s.stories b).filter fun sid => !segs.any fun g => g.key.sid == sid) ∧ t.store = s.store ∧
        t.chan ch = { s.chan ch with counter := next, queue := enqueueJob job (s.chan ch).queue } ∧
        (∀ other, other ≠ ch → t.chan other = s.chan other) ∧ SameLines s t ∧ SameSettings s t) ∧
      ((s.chan ch).queue = [] → (s.chan ch).state = .idle → RunsTo (exec .setPage s) fun t =>
        Replied s t f .taken (chanByte ch :: be16 (s.chan ch).counter) ∧ JobStarted s t ch job [] [] ∧
        (t.chan ch).counter = next ∧ (∀ sid : Sid, (∀ g ∈ segs, g.key.sid ≠ sid) → t.dir[sid] = s.dir[sid]) ∧
        t.store = s.store ∧ (∀ other, other ≠ ch → t.chan other = s.chan other) ∧ SameLines s t ∧ SameSettings s t) ∧
      (∀ head rest, (s.chan ch).queue.length < 32 → (s.chan ch).state = .idle → enqueueJob job (s.chan ch).queue = head :: rest →
        DirectoryForm s → RunsTo (exec .setPage s) fun t =>
          Replied s t f .taken (chanByte ch :: be16 (s.chan ch).counter) ∧ JobStarted s t ch head rest [] ∧
          (head ≠ job → ∀ g ∈ segs, ∀ st, s.story? g.key.sid = some st →
            HasStory s t g.key.sid { st with place := .queued ch (s.chan ch).counter }) ∧ (t.chan ch).counter = next ∧
          (∀ sid : Sid, (∀ g ∈ segs ++ head.segments, g.key.sid ≠ sid) → t.dir[sid] = s.dir[sid]) ∧
          (∀ b, t.stories b = (s.stories b).filter fun sid => !segs.any fun g => g.key.sid == sid) ∧ t.store = s.store ∧
          (∀ other, other ≠ ch → t.chan other = s.chan other) ∧ SameLines s t ∧ SameSettings s t))

/-- WITHDRAW takes a waiting job off its queue and returns its stories OPEN to their homes; for a job that does not wait
there it is refused NO_SUCH_JOB. Of two waiting jobs that share a number, which a wrapped counter may give, it takes the one
nearer the head (R158, R172; the last is the model's own choice, log 55). -/
def Obligations.WithdrawReturnsTheStories : Prop :=
  ∀ (s : Machine.State) (f : Frame) (cb j1 j2 : Byte) (ch : Chan), Front s 0x23 f → f.body = [cb, j1, j2] →
    chanOf cb = some ch →
    let waits (x : Job) : Prop := x.number = ofBE16 j1 j2 ∧ x.running = false
    (∀ before j after, (s.chan ch).queue = before ++ j :: after → waits j → (∀ x ∈ before, ¬waits x) →
      RunsTo (exec .withdraw s) fun t =>
        Replied s t f .done [] ∧ t.chan ch = { s.chan ch with queue := before ++ after } ∧
        (∀ g ∈ j.segments, ∀ st, s.story? g.key.sid = some st →
          HasStory s t g.key.sid { st with place := .opn st.home } ∧ g.key.sid ∈ t.stories st.home) ∧
        (∀ sid : Sid, (∀ g ∈ j.segments, g.key.sid ≠ sid) → t.dir[sid] = s.dir[sid]) ∧ t.store = s.store ∧
        t.fitQueue = s.fitQueue ∧ (∀ other, other ≠ ch → t.chan other = s.chan other) ∧ SameLines s t ∧ SameSettings s t) ∧
    ((∀ x ∈ (s.chan ch).queue, ¬waits x) →
      Reaches (exec .withdraw s) (s.answered f .noSuchJob []))

/-- CANCEL of the running job is answered TAKEN: while a code of the job is being placed or dwells, cancel pending is set;
with JOB END on its way nothing changes; while the next code is due the CANCEL code is placed at once and the stall timer
stops, here with a byte in the shift stage of the channel's line. For any other job it is refused NOT_RUNNING (R171). -/
def Obligations.CancelStopsTheRunningJob : Prop :=
  ∀ (s : Machine.State) (f : Frame) (cb j1 j2 : Byte) (ch : Chan), Front s 0x24 f → f.body = [cb, j1, j2] →
    chanOf cb = some ch →
    ((∀ j, (s.chan ch).job? = some j → j.number ≠ ofBE16 j1 j2) → Reaches (exec .cancel s) (s.answered f .notRunning [])) ∧
    ∀ j r, (s.chan ch).job? = some j → j.number = ofBE16 j1 j2 → (s.chan ch).run = some r →
      (∀ code ticks, (s.chan ch).cancelPending = false → r.phase = .dwell code ticks →
        Reaches (exec .cancel s) ((s.setChan ch { s.chan ch with cancelPending := true }).answered f .taken [])) ∧
      (∀ code rest, (s.chan ch).cancelPending = false → r.phase = .placing code rest → code.isJobEnd = false →
        (s.chan ch).state = .running →
        Reaches (exec .cancel s) ((s.setChan ch { s.chan ch with cancelPending := true }).answered f .taken [])) ∧
      (∀ n rest, r.phase = .placing (.jobEnd n) rest → Reaches (exec .cancel s) (s.answered f .taken [])) ∧
      (∀ l, (s.chan ch).cancelPending = false → r.phase = .due → s.boundLine ch = some l →
        s.lines[l].shift.isSome = true → s.lines[l].holding = none → RunsTo (exec .cancel s) fun t =>
          Replied s t f .taken [] ∧ t.lines[l].holding = some 0x18 ∧
          t.chan ch = { s.chan ch with stallTimer := none, run := some { r with phase := .placing .cancel [] } } ∧
          t.dir = s.dir ∧ t.baskets = s.baskets ∧ t.store = s.store ∧ t.fitQueue = s.fitQueue ∧ SameLines s t ∧
          SameSettings s t)

/-! ## Loads -/

/-- FORMAT LOAD of a record within R122's ranges and R124's order of spaces replaces the record, and WIDTH LOAD of entries 0
to 63 in the codes 0x20 to 0x9F replaces those entries with the entry for the word space kept 0; each sets the outdated flag
of the active fit and changes nothing else. A format record outside 0 to 31, a font outside 0 to 15 and anything else out of range
is refused whole (R122, R124, R126, R154). -/
def Obligations.FormatAndWidthLoads : Prop :=
  ∀ (s : Machine.State) (f : Frame),
    let outdated := s.fitQueue.map fun e => { e with active := e.active.map fun r => { r with outdated := true } }
    (∀ nb name m1 m2 font size l1 l2 mode mn opt mx letter indent extra n, Front s 0x30 f →
      f.body = nb :: (textBytes name ++ [m1, m2, font, size, l1, l2, mode, mn, opt, mx, letter, indent, extra]) →
      name.length ≤ 255 → formatOf nb = some n →
      (∀ m, modeOf mode.toNat = some m →
        let rec' : Format :=
          { name := name, measure := ofBE16 m1 m2, font := font.toNat, size := size.toNat, leading := ofBE16 l1 l2, mode := m,
            minSpace := mn.toNat, optSpace := opt.toNat, maxSpace := mx.toNat, letterspace := letter.toNat,
            indent := indent.toNat, extraLead := extra.toNat }
        (rec'.inRange = true →
          Reaches (exec .formatLoad s)
            ({ s with formats := s.formats.set n rec', fitQueue := outdated }.answered f .done [])) ∧
        (rec'.inRange = false → Reaches (exec .formatLoad s) (s.answered f .badArgument []))) ∧
      (modeOf mode.toNat = none → Reaches (exec .formatLoad s) (s.answered f .badArgument []))) ∧
    (∀ nb rest, Front s 0x30 f → f.body = nb :: rest → 31 < nb.toNat →
      Reaches (exec .formatLoad s) (s.answered f .badArgument [])) ∧
    (∀ fb rest, Front s 0x31 f → f.body = fb :: rest → 15 < fb.toNat →
      Reaches (exec .widthLoad s) (s.answered f .badArgument [])) ∧
    (∀ fb first count entries font, Front s 0x31 f → f.body = fb :: first :: count :: entries → fontOf fb = some font →
      let legal := 0x20 ≤ first.toNat ∧ first.toNat ≤ 0x9F ∧ 1 ≤ count.toNat ∧ first.toNat + count.toNat ≤ 0xA0 ∧
        entries.length = count.toNat ∧ ∀ b ∈ entries, b.toNat ≤ 63
      (legal → ∃ table : Vector Nat 128,
        (∀ i : Fin 128, table[i] =
          if i.val = 0 ∧ first = 0x20 then 0
          else if first.toNat ≤ i.val + 0x20 ∧ i.val + 0x20 < first.toNat + count.toNat then
            (entries.getD (i.val + 0x20 - first.toNat) 0).toNat
          else s.widths[font][i]) ∧
        Reaches (exec .widthLoad s)
          ({ s with widths := s.widths.set font table, fitQueue := outdated }.answered f .done [])) ∧
      (¬legal → Reaches (exec .widthLoad s) (s.answered f .badArgument [])))

/-- BASKET NAME renames one of the baskets 1 to 22, and marks row 0 on the sessions that show its name and, in a state whose images
show it, on no other; PROFILE LOAD replaces a profile whose fields are legal and whose default
basket is in its send mask; WIRE ACCEPT replaces a line's accept set and idle time; SETTER PARAMETERS replace a channel's
parameters. Each changes that setting alone. A basket outside 1 to 22, a bad name, a profile outside 0 to 15, a code digit that is
none, a default basket above 22 or outside the send mask, a channel above 1, a line above 39 and a value out of range are refused
BAD_ARGUMENT (R25, R37, R72, R109, R162; that permission bits 3 to 7 are ignored is the model's own choice, log 19). -/
def Obligations.OtherLoadsReplaceOneSetting : Prop :=
  ∀ (s : Machine.State) (f : Frame),
    (∀ bb name b, Front s 0x32 f → f.body = bb :: textBytes name → name.length ≤ 255 → basketOf bb = some b →
      (1 ≤ b.val → b.val ≤ 22 → validName 8 name = true →
        ReachesWith (exec .basketName s)
          ({ s with baskets := s.baskets.set b { s.baskets[b] with name := name } }.answered f .done [])
          fun t => ∀ m sm, s.session? m = some sm →
            (s.showsName b sm = true → RowDirty t m 0) ∧
            (s.showsName b sm = false → Settled s → RowDirty t m 0 → RowDirty s m 0)) ∧
      (b.val = 0 ∨ b.val = 23 ∨ validName 8 name = false →
        Reaches (exec .basketName s) (s.answered f .badArgument []))) ∧
    (∀ bb rest, Front s 0x32 f → f.body = bb :: rest → 23 < bb.toNat →
      Reaches (exec .basketName s) (s.answered f .badArgument [])) ∧
    (∀ nb d1 d2 d3 d4 name t1 t2 t3 s1 s2 s3 w1 w2 w3 perm bb cb n b ch, Front s 0x33 f →
      f.body = nb :: d1 :: d2 :: d3 :: d4 ::
        (textBytes name ++ [t1, t2, t3, s1, s2, s3, w1, w2, w3, perm, bb, cb]) →
      profileOf nb = some n → [d1, d2, d3, d4].all isDigit = true → validName 8 name = true → basketOf bb = some b →
      b.val ≤ 22 → chanOf cb = some ch →
      (inMask (maskOfBytes s1 s2 s3) b = true →
        Reaches (exec .profileLoad s)
          ({ s with
            profiles := s.profiles.set n
              { code := digitsValue [d1, d2, d3, d4], name := name, take := maskOfBytes t1 t2 t3,
                send := maskOfBytes s1 s2 s3, watch := maskOfBytes w1 w2 w3, mayKill := perm.getLsbD 0,
                maySet := perm.getLsbD 1, mayReviewAny := perm.getLsbD 2, defaultBasket := b,
                defaultChannel := ch } }.answered f .done [])) ∧
      (inMask (maskOfBytes s1 s2 s3) b = false → Reaches (exec .profileLoad s) (s.answered f .badArgument []))) ∧
    (∀ nb d1 d2 d3 d4 name t1 t2 t3 s1 s2 s3 w1 w2 w3 perm bb cb, Front s 0x33 f →
      f.body = nb :: d1 :: d2 :: d3 :: d4 ::
        (textBytes name ++ [t1, t2, t3, s1, s2, s3, w1, w2, w3, perm, bb, cb]) → name.length ≤ 255 →
      15 < nb.toNat ∨ [d1, d2, d3, d4].all isDigit = false ∨ validName 8 name = false ∨ 22 < bb.toNat ∨ 1 < cb.toNat →
      Reaches (exec .profileLoad s) (s.answered f .badArgument [])) ∧
    (∀ line a1 a2 a3 a4 idle l, Front s 0x34 f → f.body = [line, a1, a2, a3, a4, idle] → lineOf line = some l →
      let n := ofBE16 a1 a2 * 65536 + ofBE16 a3 a4
      (n < 2 ^ 26 → 1 ≤ idle.toNat → idle.toNat ≤ 30 →
        Reaches (exec .wireAccept s)
          ({ s with
            lines := s.lines.set l
              { s.lines[l] with accept := BitVec.ofNat 26 n, idleTime := idle.toNat } }.answered f .done [])) ∧
      (2 ^ 26 ≤ n ∨ idle = 0 ∨ 30 < idle.toNat → Reaches (exec .wireAccept s) (s.answered f .badArgument []))) ∧
    (∀ line rest, Front s 0x34 f → f.body = line :: rest → 39 < line.toNat →
      Reaches (exec .wireAccept s) (s.answered f .badArgument [])) ∧
    (∀ cb rest, Front s 0x35 f → f.body = cb :: rest → 1 < cb.toNat →
      Reaches (exec .setterParameters s) (s.answered f .badArgument [])) ∧
    (∀ cb k dc ds f1 f2 dz dl s1 s2 ch, Front s 0x35 f → f.body = [cb, k, dc, ds, f1, f2, dz, dl, s1, s2] →
      chanOf cb = some ch →
      (k.toNat ≤ 7 → ofBE16 f1 f2 ≤ 4095 → 10 ≤ ofBE16 s1 s2 → ofBE16 s1 s2 ≤ 600 →
        Reaches (exec .setterParameters s)
          ((s.setChan ch
            { s.chan ch with
              params := { k := k.toNat, dc := dc.toNat, ds := ds.toNat, df := ofBE16 f1 f2, dz := dz.toNat, dl := dl.toNat,
                          stall := ofBE16 s1 s2 } }).answered f .done [])) ∧
      (7 < k.toNat ∨ 4095 < ofBE16 f1 f2 ∨ ofBE16 s1 s2 < 10 ∨ 600 < ofBE16 s1 s2 →
        Reaches (exec .setterParameters s) (s.answered f .badArgument [])))

/-! ## The EEPROM and RESTART, by order -/

/-- IMAGE READ (R200): a count outside 1 to 256, or words beyond the 8,192nd, are refused BAD_ARGUMENT. Otherwise the order is
taken, and when the last word has been read it is answered DONE with the words as the EEPROM holds them, in ascending order;
the EEPROM, the image state and every setting are not touched. -/
def Obligations.ImageReadAnswersWithTheWords : Prop :=
  ∀ (s : Machine.State) (f : Frame),
    (∀ f1 f2 c1 c2, Front s 0x40 f → f.body = [f1, f2, c1, c2] →
      (1 ≤ ofBE16 c1 c2 → ofBE16 c1 c2 ≤ 256 → ofBE16 f1 f2 + ofBE16 c1 c2 ≤ 8192 →
        Reaches (exec .imageRead s)
          { s with
            host := { s.host with active := some { frame := f, work := .imageRead (ofBE16 f1 f2) (ofBE16 c1 c2) } } }) ∧
      (ofBE16 c1 c2 = 0 ∨ 256 < ofBE16 c1 c2 ∨ 8192 < ofBE16 f1 f2 + ofBE16 c1 c2 →
        Reaches (exec .imageRead s) (s.answered f .badArgument []))) ∧
    (∀ first count, s.host.active = some { frame := f, work := .imageRead first count } →
      Reaches (exec .imageReadDone s)
        (s.answered f .done
          ((List.range count).flatMap fun i =>
            [BitVec.ofNat 8 ((eepromWord s.eeprom (first + i)).toNat / 256),
              BitVec.ofNat 8 (eepromWord s.eeprom (first + i)).toNat])))

/-- IMAGE WRITE: within the bounds the order is taken with its words, and when they stand in the EEPROM it is answered DONE:
each word written reads as it was sent, every other word as before, and nothing else changes but the reply (R201). -/
def Obligations.ImageWriteStoresTheWords : Prop :=
  ∀ (s : Machine.State) (f : Frame),
    (∀ f1 f2 c1 c2 rest words, Front s 0x41 f → f.body = f1 :: f2 :: c1 :: c2 :: rest → wordsOfBytes rest = some words →
      (words.length = ofBE16 c1 c2 → 1 ≤ words.length → words.length ≤ 256 → ofBE16 f1 f2 + words.length ≤ 8192 →
        Reaches (exec .imageWrite s)
          { s with host := { s.host with active := some { frame := f, work := .imageWrite (ofBE16 f1 f2) words } } }) ∧
      (words.length ≠ ofBE16 c1 c2 ∨ words.length = 0 ∨ 256 < words.length ∨ 8192 < ofBE16 f1 f2 + ofBE16 c1 c2 →
        Reaches (exec .imageWrite s) (s.answered f .badArgument []))) ∧
    (∀ first words, s.host.active = some { frame := f, work := .imageWrite first words } → eepromWf s.eeprom = true →
      ∃ e, Reaches (exec .imageWriteDone s) ({ s with eeprom := e }.answered f .done []) ∧
        ∀ a, eepromWord e a =
          if first ≤ a ∧ a < first + words.length then words.getD (a - first) 0 else eepromWord s.eeprom a)

/-- RESTART is taken with its flag, and its event returns every block to its RESTART state: every session fresh, every intake
as it starts, every receiver in WAIT-MARK with its counts 0, the fit queue and the set queues empty, every held, queued or
setting story OPEN at home, an intake story OPEN in WIRE and TRUNCATED or, when empty, freed. The store and the records are
otherwise kept, a FREE record staying FREE. The notice queue is emptied and the overflow flag cleared before RESTARTED is
queued, and the order is answered DONE. Without the reload flag every setting and role is kept. With it every setting and role
is what a power start with this EEPROM would have its image load leave (ImageLoadDoneSetsTheImageState), but that an image not
VALID leaves the formats and the width tables as they stood; the image state is the outcome of the check; and every session and
intake is as it starts under the new roles (R24, R25, R37, R46, R49, R59, R62, R63, R109, R120, R123, R158, R162, R175, R187,
R199; with which blank time the sessions start is the model's own reading, log 41). -/
def Obligations.RestartReturnsEveryBlock : Prop :=
  ∀ (s : Machine.State) (f : Frame) (reload : Bool),
    (∀ flag, Front s 0x42 f → f.body = [flag] → parseFlag flag = some reload →
      Reaches (exec .restart s) { s with host := { s.host with active := some { frame := f, work := .restart reload } } }) ∧
    (s.host.active = some { frame := f, work := .restart reload } → RunsTo (exec .restartEvent s) fun t =>
      t.host.reply = some (replyFrame false f .done []) ∧ t.host.active = none ∧ t.host.overflow = false ∧
      (s.host.waiting = none →
        t.host.notices = [.restarted reload (if reload then some (checkImage s.eeprom) else none)]) ∧
      (StoreForm s → t.store = s.store) ∧ (∀ sid, s.story? sid = none → t.dir[sid] = s.dir[sid]) ∧
      Told t (.restarted reload (if reload then some (checkImage s.eeprom) else none)) ∧ t.fitQueue = [] ∧
      (∀ ch, (t.chan ch).queue = [] ∧ (t.chan ch).run = none ∧ (t.chan ch).counter = (s.chan ch).counter ∧
        (t.chan ch).state = if (t.boundLine ch).isSome then .idle else .offline) ∧
      (∀ l : LineNo, t.lines[l].rx = .waitMark ∧ t.lines[l].slot = none ∧ t.lines[l].parityErrors = 0 ∧
        t.lines[l].framingErrors = 0 ∧ t.lines[l].overruns = 0 ∧ t.lines[l].breaks = 0) ∧
      (reload = false → SameSettings s t ∧ (∀ l : LineNo, t.lines[l].owner.role = s.lines[l].owner.role) ∧
        (∀ l ss, s.session? l = some ss → t.sessionCore l = some (Session.fresh s.term.blankTime).core) ∧
        (∀ l ik, s.intake? l = some ik → t.intake? l = some Intake.initial)) ∧
      (reload = true →
        t.loader = { s.loader with result := checkImage s.eeprom } ∧ t.eeprom = s.eeprom ∧ t.pending = s.pending ∧
        (∃ u, exec .imageLoadDone { State.reset with eeprom := s.eeprom } = .next u ∧ t.profiles = u.profiles ∧
          t.term = u.term ∧ (∀ b : BasketNo, t.baskets[b].name = u.baskets[b].name) ∧
          (∀ ch, (t.chan ch).params = (u.chan ch).params) ∧
          (∀ l : LineNo, t.lines[l].owner.role = u.lines[l].owner.role ∧ t.lines[l].settings = u.lines[l].settings ∧
            t.lines[l].accept = u.lines[l].accept ∧ t.lines[l].idleTime = u.lines[l].idleTime) ∧
          (checkImage s.eeprom = .valid → t.formats = u.formats ∧ t.widths = u.widths)) ∧
        (checkImage s.eeprom ≠ .valid → t.formats = s.formats ∧ t.widths = s.widths) ∧
        (∀ l ss, t.session? l = some ss →
          ss.core =
            (Session.fresh (if s.lines[l].owner.role = .terminal then s.term.blankTime else 15)).core) ∧
        (∀ l ik, t.intake? l = some ik → ik = Intake.initial)) ∧
      ∀ sid st, s.story? sid = some st →
        (st.place ≠ .intake ∨ st.count ≠ 0 → t.dir[sid].gen = s.dir[sid].gen) ∧
        (∀ b, st.place = .opn b → t.story? sid = some { st with reviewers := [] }) ∧
        (st.place = .killed → t.story? sid = some { st with reviewers := [] }) ∧
        (∀ l ch n, st.place = .held l ∨ st.place = .queued ch n ∨ st.place = .setting ch n →
          t.story? sid = some { st with reviewers := [], place := .opn st.home } ∧ sid ∈ t.stories st.home) ∧
        (st.place = .intake → st.count ≠ 0 →
          t.story? sid = some { st with reviewers := [], place := .opn wireBasket, home := wireBasket, truncated := true } ∧
            sid ∈ t.stories wireBasket) ∧
        (st.place = .intake → st.count = 0 → t.dir[sid] = { gen := (s.dir[sid].gen + 1) % 256, story := none }))

/-! ## The line multiplexer -/

/-- The receiver's events. A marking sample takes WAIT-MARK and BREAK to HUNT, a start bit takes HUNT to ASSEMBLE, a false
start takes ASSEMBLE back to HUNT, and a break takes ASSEMBLE to BREAK and is counted; entering HUNT starts a WIRE line's idle
timer and a start bit stops it. A break on a TERMINAL line drops an unpaired lead byte, marks all 24 rows and makes the code of the
present mode, NORMAL in TEST, and the cursor pend; on a WIRE line it is handed to the intake and LINE_FAULT is queued (R51, R53,
R54, R55, R79). -/
def Obligations.ReceiverFollowsTheLine : Prop :=
  ∀ (s : Machine.State) (l : LineNo),
    let r := s.lines[l]
    (r.rx = .waitMark ∨ r.rx = .brk →
      Reaches (exec (.lineSampledMarking l.val) s)
        { s with lines := s.lines.set l { r with rx := .hunt, marking := true, idleTimer := decide (r.owner.role = .wire) } }) ∧
    (r.rx = .hunt →
      Reaches (exec (.startBitSampled l.val) s)
        { s with lines := s.lines.set l { r with rx := .assemble, marking := false, idleTimer := false } }) ∧
    (r.rx = .assemble →
      Reaches (exec (.falseStart l.val) s)
        { s with lines := s.lines.set l { r with rx := .hunt, marking := true, idleTimer := decide (r.owner.role = .wire) } }) ∧
    (r.rx = .assemble →
      (r.owner = .idle ∨ r.owner = .setter →
        Reaches (exec (.breakDetected l.val) s)
          { s with
            lines := s.lines.set l { r with rx := .brk, marking := false, breaks := Nat.min 65535 (r.breaks + 1) } }) ∧
      (∀ ss, r.owner = .terminal ss →
        ReachesWith (exec (.breakDetected l.val) s)
          { s with
            lines := s.lines.set l
              { r with
                rx := .brk, marking := false, breaks := Nat.min 65535 (r.breaks + 1),
                owner := .terminal { ss with fifo := dropLead ss.fifo, discardNext := false } } }
          fun t => ScreenAnew s t l (if ss.mode = .test then .normal else ss.mode.code)) ∧
      (∀ ik, r.owner = .wire ik →
        Reaches (exec (.breakDetected l.val) s)
          (State.offer (.lineFault l false) { s with
            lines := s.lines.set l
              { r with
                rx := .brk, marking := false, breaks := Nat.min 65535 (r.breaks + 1),
                owner := .wire { ik with handed := ik.handed ++ [.brk] } } })))

/-- CHARACTER_RECEIVED ends a frame in ASSEMBLE: each of its errors is counted, its single status is the first of overrun,
framing and parity that applies, and it is handed over by the line's role: discarded on an IDLE line, placed in the slot of a
WIRE line, filed, lost or discarded at a session by the tests of R85 and R86 with the blank timer started, and kept as the last
status byte of a bound SETTER line's channel when GOOD and no flow byte. A key with an error and a key without room ring the bell,
and a GOOD one at a blanked screen wakes it: its screen is sent anew in NORMAL. The receiver hunts on, the line marking where the stop
bit was or every bit of the frame was spacing: that frame, with a spacing sample behind it, were a break (R50 to R55, R81, R82, R85,
R86, R163; that a byte 0x1F behind an unpaired lead byte is tested as a lead byte is the model's own choice, log 50, and that the
discard-next flag is tested before the room in the FIFO, whatever the byte, is its own reading, log 40). -/
def Obligations.CharacterReceivedIsHandedOver : Prop :=
  ∀ (s : Machine.State) (l : LineNo) (data : Byte) (parityBit stopBit : Bool), s.lines[l].rx = .assemble →
    let r := s.lines[l]
    let byte := if r.settings.dataBits = 7 then data &&& 0x7F else data
    let bad := match r.settings.parity with
      | .none => false
      | .even => (onesOf byte + parityBit.toNat) % 2 == 1
      | .odd => (onesOf byte + parityBit.toNat) % 2 == 0
    let status := if r.slot.isSome then CharStatus.overrun else if !stopBit then .framing else if bad then .parity else .good
    let count (hit : Bool) (n : Nat) := if hit then Nat.min 65535 (n + 1) else n
    let r' : LineRec :=
      { r with
        rx := .hunt, marking := stopBit || (byte == 0 && (r.settings.parity == .none || !parityBit)),
        idleTimer := decide (r.owner.role = .wire), parityErrors := count bad r.parityErrors, framingErrors := count (!stopBit) r.framingErrors,
        overruns := count r.slot.isSome r.overruns }
    let outcome := exec (.characterReceived l.val data parityBit stopBit) s
    let with' (o : Owner) (slot : Option RxChar) : Machine.State :=
      { s with lines := s.lines.set l { r' with owner := o, slot := slot } }
    (r.owner = .idle → Reaches outcome (with' .idle r.slot)) ∧
    (∀ ik, r.owner = .wire ik → Reaches outcome (with' (.wire ik) (some { byte := byte, status := status }))) ∧
    (∀ ss, r.owner = .terminal ss →
      let started := { ss with blankTimer := if s.term.blankTime = 0 then none else some s.term.blankTime }
      (status ≠ .good →
        ReachesRinging outcome
          (with' (.terminal { started with discardNext := false, fifo := dropLead ss.fifo }) r.slot) s l) ∧
      (status = .good → ss.mode = .blank →
        ReachesWith outcome
          (with' (.terminal
            { started with
              mode := .normal, fifo := dropLead ss.fifo, discardNext := ss.discardNext || byte == 0x1F }) r.slot)
          fun t => ScreenAnew s t l .normal) ∧
      (status = .good → ss.mode ≠ .blank → ss.discardNext = true →
        Reaches outcome (with' (.terminal { started with discardNext := false }) r.slot)) ∧
      (status = .good → ss.mode ≠ .blank → ss.discardNext = false → byte = 0x1F → ss.fifo.length ≤ 14 →
        Reaches outcome (with' (.terminal { started with fifo := ss.fifo ++ [0x1F] }) r.slot)) ∧
      (status = .good → ss.mode ≠ .blank → ss.discardNext = false → byte = 0x1F → 15 ≤ ss.fifo.length →
        ReachesRinging outcome (with' (.terminal { started with discardNext := true }) r.slot) s l) ∧
      (status = .good → ss.mode ≠ .blank → ss.discardNext = false → byte ≠ 0x1F → ss.fifo.length < 16 →
        Reaches outcome (with' (.terminal { started with fifo := ss.fifo ++ [byte] }) r.slot)) ∧
      (status = .good → ss.mode ≠ .blank → ss.discardNext = false → byte ≠ 0x1F → 16 ≤ ss.fifo.length →
        ReachesRinging outcome (with' (.terminal started) r.slot) s l)) ∧
    (r.owner = .setter → s.boundChan l = none ∨ status ≠ .good → Reaches outcome (with' .setter r.slot)) ∧
    (∀ ch, r.owner = .setter → s.boundChan l = some ch → status = .good → byte ≠ 0x11 → byte ≠ 0x13 → byte ≠ 0x15 →
      Reaches outcome ((with' .setter r.slot).setChan ch { s.chan ch with lastStatus := some byte }))

/-- The timers of a line. An idle timer's expiry stops it and hands an idle to the intake. A blank timer's expiry takes NORMAL
and INVERSE to BLANK, whose mode code then pends, and changes no other mode. A blink timer's expiry changes the phase, starts the
timer with the new phase's length and marks row 0 (R53, R54, R80, R81, R84). -/
def Obligations.LineTimersExpire : Prop :=
  ∀ (s : Machine.State) (l : LineNo),
    (∀ ik, s.lines[l].owner = .wire ik → s.lines[l].idleTimer = true →
      Reaches (exec (.idleTimerExpiry l.val) s)
        { s with
          lines := s.lines.set l
            { s.lines[l] with idleTimer := false, owner := .wire { ik with handed := ik.handed ++ [.idle] } } }) ∧
    (∀ ss, s.session? l = some ss → ss.blankTimer.isSome = true →
      ReachesWith (exec (.blankTimerExpiry l.val) s)
        (s.setSession l
          { ss with
            blankTimer := none
            mode := if ss.mode = .normal ∨ ss.mode = .inverse then .blank else ss.mode })
        fun t => ss.mode = .normal ∨ ss.mode = .inverse → ModePends t l .blank) ∧
    (∀ ss, s.session? l = some ss → ss.blinkTimer.isSome = true →
      ReachesWith (exec (.blinkTimerExpiry l.val) s)
        (s.setSession l
          { ss with
            blinkOn := !ss.blinkOn
            blinkTimer := some (if ss.blinkOn then s.term.blinkOff else s.term.blinkOn) })
        fun t => RowDirty t l 0)

/-- TX_FRAME_END: the byte in the holding slot, if there is one, moves to the empty shift stage under the line's settings;
with none on a WIRE line or an unbound SETTER line the stage is empty. On an IDLE line the oldest byte of the test buffer moves to
the emptied slot. On a line that no channel is bound to nothing else changes but what its owner then sends. On a channel's line the next byte of the code in progress takes the holding slot, and
when the code's last byte has left it the dwell counter is loaded with the code's dwell: Dc after CHAR, Ds after SPACE, Df
after FONT and SEGMENT START, Dz after SIZE, half of Dl times the leading, rounded up, after LINE START, and none after the
other codes. So LINE END, once it has left, is counted and the channel waits if the next line is still being staged; JOB END
ends the job DONE, and CANCEL ends it ABORTED, and the channel is IDLE, or OFFLINE with its flow NOT READY, or starts the next
job. A frame is a start bit, the data bits with the least significant first, the parity bit that makes the ones even or odd,
and the stop bits (R49, R50, R56, R58, R164, R167, R171, R173, R174). -/
def Obligations.FrameEndTakesTheHeldByte : Prop :=
  (∀ x : TxFrame, x.settings.dataBits = 7 ∨ x.settings.dataBits = 8 → x.byte = x.settings.sent x.byte →
    let n := x.settings.dataBits
    let stops := List.replicate x.settings.stopBits true
    let data := (x.levels.drop 1).take n
    let after := x.levels.drop (1 + n)
    x.levels.length = x.settings.frameLength ∧
    x.settings.frameLength = 1 + n + (if x.settings.parity = .none then 0 else 1) + x.settings.stopBits ∧
    x.levels.head? = some false ∧ (∀ i, i < n → data[i]? = some (x.byte.getLsbD i)) ∧
    (x.settings.parity = .none → after = stops) ∧
    (x.settings.parity = .even → ∃ bit, after = bit :: stops ∧ (data.count true + bit.toNat) % 2 = 0) ∧
    (x.settings.parity = .odd → ∃ bit, after = bit :: stops ∧ (data.count true + bit.toNat) % 2 = 1)) ∧
  (∀ (p : SetterParams) (c : Byte) (e f z n leading offset : Nat) (q : Int),
    Code.dwell p (.char c e) = p.dc ∧ Code.dwell p (.space e) = p.ds ∧ Code.dwell p (.font f) = p.df ∧
    Code.dwell p (.size z) = p.dz ∧ Code.dwell p (.segmentStart e n) = p.df ∧
    p.dl * leading ≤ 2 * Code.dwell p (.lineStart leading offset) ∧
    2 * Code.dwell p (.lineStart leading offset) ≤ p.dl * leading + 1 ∧
    Code.dwell p (.lineEnd q) = 0 ∧ Code.dwell p (.jobStart n) = 0 ∧ Code.dwell p (.jobEnd n) = 0 ∧
    Code.dwell p .cancel = 0) ∧
  ∀ (s : Machine.State) (l : LineNo), s.lines[l].shift.isSome = true → RunsTo (exec (.txFrameEnd l.val) s) fun t =>
    (∀ b, s.lines[l].holding = some b →
      t.lines[l].shift = some
        { byte := if s.lines[l].settings.dataBits = 7 then b &&& 0x7F else b, settings := s.lines[l].settings }) ∧
    (s.lines[l].holding = none → s.boundChan l = none → s.lines[l].owner.role = .wire ∨ s.lines[l].owner.role = .setter →
      t.lines[l].shift = none ∧ t.lines[l].holding = none) ∧
    (∀ b, s.lines[l].holding = some b → s.lines[l].owner = .idle →
      t.lines[l].holding = s.lines[l].test.head? ∧ t.lines[l].test = s.lines[l].test.tail) ∧
    (∀ b more, s.lines[l].holding = none → s.lines[l].owner = .idle → s.lines[l].test = b :: more →
      t.lines[l].shift = some { byte := s.lines[l].settings.sent b, settings := s.lines[l].settings } ∧
      t.lines[l].holding = more.head? ∧ t.lines[l].test = more.tail) ∧
    (∀ ch j r code b c more, s.boundLine ch = some l → (s.chan ch).job? = some j → (s.chan ch).run = some r →
      r.phase = .placing code (c :: more) → s.lines[l].holding = some b →
      t.lines[l].holding = some c ∧ t.chan ch = { s.chan ch with run := some { r with phase := .placing code more } }) ∧
    (∀ ch j r code b, s.boundLine ch = some l → (s.chan ch).job? = some j → (s.chan ch).run = some r →
      r.phase = .placing code [] → s.lines[l].holding = some b → 0 < code.dwell r.params →
      t.lines[l].holding = none ∧
      t.chan ch = { s.chan ch with run := some { r with phase := .dwell code (code.dwell r.params) } }) ∧
    (∀ ch j r q b k g, s.boundLine ch = some l → (s.chan ch).job? = some j → (s.chan ch).run = some r →
      r.phase = .placing (.lineEnd q) [] → s.lines[l].holding = some b → (s.chan ch).state = .running →
      (s.chan ch).flow = true → (s.chan ch).cancelPending = false → (s.chan ch).staged = none → r.codes = [] →
      r.seg = some k → ¬ k < r.fitSeg → r.segs[k]? = some g →
      let sum : LineCounts :=
        { loose := g.sentCounts.loose + r.counts.loose, overlong := g.sentCounts.overlong + r.counts.overlong,
          missing := g.sentCounts.missing + r.counts.missing }
      let segs := r.segs.set k { g with sent := g.sent + 1, sentCounts := sum }
      t.chan ch = { s.chan ch with run := some { r with phase := .due, segs := segs } }) ∧
    (∀ ch j r n b, s.boundLine ch = some l → (s.chan ch).job? = some j → (s.chan ch).run = some r →
      r.phase = .placing (.jobEnd n) [] → s.lines[l].holding = some b → (s.chan ch).cancelPending = false →
      (j.segments.map fun g => g.key.sid).Nodup →
      ((s.chan ch).flow = false ∨ (s.chan ch).queue.tail = [] → JobDone s t ch j r ∧ t.chan ch = (s.chan ch).freed ∧
        t.lines[l].holding = none) ∧
      (∀ next more, (s.chan ch).flow = true → (s.chan ch).queue.tail = next :: more →
        JobStarted s t ch next more j.segments ∧ Told t (.setDone ch j .done r.segs))) ∧
    (∀ ch j r b, s.boundLine ch = some l → (s.chan ch).job? = some j → (s.chan ch).run = some r →
      r.phase = .placing .cancel [] → s.lines[l].holding = some b →
      ((s.chan ch).flow = false ∨ (s.chan ch).queue.tail = [] → JobLost s t ch j r .cancelled ∧
        t.chan ch = (s.chan ch).freed ∧ t.lines[l].holding = none) ∧
      (∀ next more, (s.chan ch).flow = true → (s.chan ch).queue.tail = next :: more →
        JobStarted s t ch next more j.segments ∧ Told t (.setDone ch j .cancelled r.segs))) ∧
    SameLines s t ∧ (s.boundChan l = none → t.core = s.core ∧ t.host = s.portOut)

/-! ## Keys -/

/-- The ten movement keys. In EDIT with no entry in progress and in REVIEW a key moves the edit cursor, with the window top
following it, or rings where it cannot move; where each key takes the cursor is R92's table. In DARK every one of them rings.
In DIRECTORY DOWN, UP, PAGE-FWD and PAGE-BACK move the highlight by one or by 22 entries within the list with the view top
following it, UP at the first and DOWN at the last entry ring, and so do the other keys (R64, R65, R75, R89, R91, R92). -/
def Obligations.MovementKeysMove : Prop :=
  (∀ row ∈ movementKeys, ∀ (s : Machine.State) (l : LineNo) (ss : Session) (rest : List Byte), s.session? l = some ss →
    headKey ss.fifo = some (.code row.2.1, rest) →
    (∀ e, ss.edit = some e → (ss.state = .edit ∧ e.entry = none) ∨ ss.state = .review →
      (∀ c top, moveCursor (s.text e.key.sid) row.2.2 e.cursor e.top = some (c, top) →
        Reaches (exec (row.1 l.val) s)
          (s.setSession l { ss with fifo := rest, message := none, edit := some { e with cursor := c, top := top } })) ∧
      (moveCursor (s.text e.key.sid) row.2.2 e.cursor e.top = none →
        ReachesRinging (exec (row.1 l.val) s) (s.setSession l { ss with fifo := rest, message := none }) s l)) ∧
    (ss.state = .dark →
      ReachesRinging (exec (row.1 l.val) s) (s.setSession l { ss with fifo := rest, message := none }) s l) ∧
    (ss.state = .directory → row.2.2 ∉ [Movement.up, .down, .pageFwd, .pageBack] →
      ReachesRinging (exec (row.1 l.val) s) (s.setSession l { ss with fifo := rest, message := none }) s l)) ∧
  (∀ (cells : List Cell) (cursor top : Nat), cursor ≤ cells.length →
    let lines := screenLines cells
    let row (off : Nat) := lineIndex lines off
    let start (i : Nat) := (lineAt lines i).start
    let last := lines.length - 1
    let follow (c : Nat) :=
      if row c < row top then start (row c) else if row top + 22 ≤ row c then start (row c - 21) else start (row top)
    let goes (m : Movement) (c : Nat) : Prop := moveCursor cells m cursor top = some (c, follow c)
    let col := columnOf lines cursor
    (moveCursor cells .left cursor top = none ↔ cursor = 0) ∧ (0 < cursor → goes .left (cursor - 1)) ∧
    (moveCursor cells .right cursor top = none ↔ cursor = cells.length) ∧ (cursor < cells.length → goes .right (cursor + 1)) ∧
    (moveCursor cells .wordRight cursor top = none ↔ cursor = cells.length) ∧
    (∀ p, cursor ≤ p → cells[p]? = some .space → (∀ q, cursor ≤ q → q < p → cells[q]? ≠ some .space) →
      goes .wordRight (p + 1)) ∧
    (cursor < cells.length → (∀ q, cursor ≤ q → cells[q]? ≠ some .space) → goes .wordRight cells.length) ∧
    (moveCursor cells .wordLeft cursor top = none ↔ cursor = 0) ∧
    (∀ p q, 0 < cursor → q ≤ p → p ≤ cursor → (∀ x, p ≤ x → x < cursor → cells[x]? = some .space) →
      (p = 0 ∨ cells[p - 1]? ≠ some .space) → (∀ x, q ≤ x → x < p → cells[x]? ≠ some .space) →
      (q = 0 ∨ cells[q - 1]? = some .space) → goes .wordLeft q) ∧
    goes .lineStart (start (row cursor)) ∧
    (row cursor = last → goes .lineEnd cells.length) ∧
    (row cursor ≠ last → goes .lineEnd (start (row cursor) + (lineAt lines (row cursor)).cells.length - 1)) ∧
    (moveCursor cells .up cursor top = none ↔ row cursor = 0) ∧
    (moveCursor cells .down cursor top = none ↔ last ≤ row cursor) ∧
    (∀ m i, (m = .up ∧ 0 < row cursor ∧ i = row cursor - 1) ∨ (m = .down ∧ row cursor < last ∧ i = row cursor + 1) →
      (∀ k, k < (lineAt lines i).cells.length → colsOf ((lineAt lines i).cells.take k) ≤ col →
        col < colsOf ((lineAt lines i).cells.take (k + 1)) → goes m (start i + k)) ∧
      (colsOf (lineAt lines i).cells ≤ col →
        goes m (if i = last then start i + (lineAt lines i).cells.length else start i + (lineAt lines i).cells.length - 1))) ∧
    (moveCursor cells .pageFwd cursor top = none ↔ last ≤ row top) ∧
    (row top < last → moveCursor cells .pageFwd cursor top =
      some (start (Nat.min (row top + 22) last), start (Nat.min (row top + 22) last))) ∧
    (moveCursor cells .pageBack cursor top = none ↔ top = 0) ∧
    (0 < top → moveCursor cells .pageBack cursor top = some (start (row top - 22), start (row top - 22)))) ∧
  ∀ (s : Machine.State) (l : LineNo) (ss : Session) (rest : List Byte) (v : View), s.session? l = some ss →
    ss.state = .directory → ss.view = some v →
    let n := (s.viewOf v).length
    let after := s.setSession l { ss with fifo := rest, message := none }
    let at' (h : Nat) : View :=
      { v with highlight := h, top := if h < v.top then h else if v.top + 22 ≤ h then h - 21 else v.top }
    (headKey ss.fifo = some (.code 0x44, rest) →
      (v.highlight + 1 < n → ReachesWith (exec (.keyDown l.val) s) after fun t => ShowsView t l (at' (v.highlight + 1))) ∧
      (n ≤ v.highlight + 1 → ReachesRinging (exec (.keyDown l.val) s) after s l)) ∧
    (headKey ss.fifo = some (.code 0x43, rest) →
      (0 < v.highlight → v.highlight < n →
        ReachesWith (exec (.keyUp l.val) s) after fun t => ShowsView t l (at' (v.highlight - 1))) ∧
      (v.highlight = 0 → ReachesRinging (exec (.keyUp l.val) s) after s l)) ∧
    (headKey ss.fifo = some (.code 0x49, rest) →
      ReachesWith (exec (.keyPageFwd l.val) s) after fun t => ShowsView t l (at' (Nat.min (v.highlight + 22) (n - 1)))) ∧
    (headKey ss.fifo = some (.code 0x4A, rest) → v.highlight ≤ n - 1 →
      ReachesWith (exec (.keyPageBack l.val) s) after fun t => ShowsView t l (at' (v.highlight - 22)))

/-- Text keys and deletions in EDIT with no entry in progress. A text byte is inserted at the edit cursor, in OVERSTRIKE too at
the story end; with the block there full, when a block is free and the chain is below its limit. In OVERSTRIKE it is written
over a cell at the cursor. The cursor moves on by one. An insertion that needs a block, with none free, purges SPIKE from its
head up to the first story that has blocks. It is refused "STORY FULL" by a chain of 192 blocks, and "STORE FULL" with no block
free and SPIKE empty, and changes nothing but the message and the bell. The block that takes the free count from 64 to 63
queues STORE_LOW, and no other text key queues a notice but for its purges. DEL-CHAR removes the cell at the cursor, and
DEL-WORD the cells up to and including the first word space at or after it; the cursor stays. The count and the stale flag
follow, an active fit of the story is spoiled, and blocks of other stories keep their cells. The window top follows the cursor; rows 0 and 23 of the holder are
marked, and after an insertion or a deletion every row from the first changed screen line on; and every reviewer's cursor and
window stay with their text. At the story end a deletion changes no text and rings. In REVIEW the text keys, the deletions,
INSERT-TOGGLE and MARK are refused "READ ONLY" with a bell (R5 to R8, R10, R11, R13, R21, R89, R91, R93 to R96, R152). -/
def Obligations.EditKeysChangeTheText : Prop :=
  (∀ (s : Machine.State) (l : LineNo) (ss : Session) (e : Edit) (rest : List Byte), s.session? l = some ss →
    ss.state = .review → ss.edit = some e →
    let refused := s.setSession l { ss with fifo := rest, message := some (ascii "READ ONLY") }
    (∀ b, headKey ss.fifo = some (.text b, rest) → ReachesRinging (exec (.textKey l.val) s) refused s l) ∧
    (headKey ss.fifo = some (.code 0x4B, rest) → ReachesRinging (exec (.keyDelChar l.val) s) refused s l) ∧
    (headKey ss.fifo = some (.code 0x4C, rest) → ReachesRinging (exec (.keyDelWord l.val) s) refused s l) ∧
    (headKey ss.fifo = some (.code 0x4D, rest) → ReachesRinging (exec (.keyInsertToggle l.val) s) refused s l) ∧
    (headKey ss.fifo = some (.code 0x4E, rest) → ReachesRinging (exec (.keyMark l.val) s) refused s l)) ∧
  ∀ (s : Machine.State) (l : LineNo) (ss : Session) (e : Edit) (rest : List Byte) (st : Story), s.session? l = some ss →
    ss.state = .edit → ss.edit = some e → e.entry = none → s.story? e.key.sid = some st → StoreForm s →
    ChainForm s e.key.sid →
    let sid := e.key.sid
    let text := s.text sid
    let p := e.cursor
    let shown (t : Machine.State) (new : List Cell) (k n : Nat) : Prop :=
      t.text sid = new ∧
      (∃ chain, HasStory s t sid
        { st with chain := chain, count := new.length, depth := st.depth.map fun d => { d with stale := true } }) ∧
      t.sessionCore l = some (Session.core
        { ss with
          fifo := rest, message := none, edit := some { e with cursor := p + n, top := topFollowing new e.top (p + n) } }) ∧
      RowDirty t l 0 ∧ RowDirty t l 23 ∧ (k ≠ n → HolderMarked s t l sid e.top) ∧ ReviewersFollow s t sid p k n
    let changed (t : Machine.State) (new : List Cell) (k n : Nat) : Prop :=
      shown t new k n ∧ Spoils s t sid ∧ OtherBlocksKept s t sid ∧ SameRecords s t sid ∧ SameBaskets s t [] ∧ SameElsewhere s t
    let full : Prop :=
      (∃ before b after, st.chain = before ++ b :: after ∧ (chainText s.store before).length ≤ e.cursor ∧
        e.cursor < (chainText s.store before).length + 64 ∧ (blockCells s.store b).length = 64) ∨
      (e.cursor = text.length ∧
        (st.chain = [] ∨ ∃ before b, st.chain = before ++ [b] ∧ (blockCells s.store b).length = 64))
    (∀ b, headKey ss.fifo = some (.text b, rest) → e.cursor ≤ text.length → e.overstrike = false ∨ e.cursor = text.length →
      let new := text.insertIdx p (if b = 0x20 then .space else .char b)
      (¬full ∨ (st.chain.length < 192 ∧ 1 ≤ s.freeBlockCount) → RunsTo (exec (.textKey l.val) s) fun t =>
        changed t new 0 1 ∧ (full → s.freeBlockCount = 64 → Told t (.storeLow 63)) ∧
        (¬(full ∧ s.freeBlockCount = 64) → t.host = s.portOut)) ∧
      (∀ front head more, full → st.chain.length < 192 → s.freeBlockCount = 0 → DirectoryForm s →
        s.stories spikeBasket = front ++ head :: more → (∀ x ∈ front, s.chainOf x = []) → s.chainOf head ≠ [] →
        RunsTo (exec (.textKey l.val) s) fun t =>
          shown t new 0 1 ∧ t.stories spikeBasket = more ∧ SameBaskets s t [spikeBasket] ∧
          (∀ x ∈ front ++ [head], t.dir[x] = { gen := (s.dir[x].gen + 1) % 256, story := none } ∧
            Told t (.storyPurged (s.keyOf x))) ∧
          (∀ x : Sid, x ≠ sid → x ∉ front ++ [head] → t.dir[x] = s.dir[x]) ∧
          (∀ x ∈ s.store.map Prod.fst, x ∉ s.chainOf sid ++ s.chainOf head → blockCells t.store x = blockCells s.store x) ∧
          ((∀ e ∈ s.fitQueue, e.key.sid ∉ front ++ [head]) → Spoils s t sid) ∧
          ((s.chainOf head).length = 64 → Told t (.storeLow 63)) ∧ SameElsewhere s t) ∧
      (full → 192 ≤ st.chain.length →
        ReachesRinging (exec (.textKey l.val) s)
          (s.setSession l { ss with fifo := rest, message := some (ascii "STORY FULL") }) s l) ∧
      (full → st.chain.length < 192 → s.freeBlockCount = 0 → s.stories spikeBasket = [] →
        ReachesRinging (exec (.textKey l.val) s)
          (s.setSession l { ss with fifo := rest, message := some (ascii "STORE FULL") }) s l)) ∧
    (∀ b, headKey ss.fifo = some (.text b, rest) → e.cursor < text.length → e.overstrike = true →
      RunsTo (exec (.textKey l.val) s) fun t =>
        changed t (text.set p (if b = 0x20 then .space else .char b)) 1 1 ∧ t.host = s.portOut) ∧
    (headKey ss.fifo = some (.code 0x4B, rest) → e.cursor < text.length →
      RunsTo (exec (.keyDelChar l.val) s) fun t => changed t (text.eraseIdx p) 1 0 ∧ t.host = s.portOut) ∧
    (headKey ss.fifo = some (.code 0x4C, rest) → e.cursor < text.length →
      let kept := ((text.drop p).dropWhile fun c => c != .space).tail
      RunsTo (exec (.keyDelWord l.val) s) fun t =>
        changed t (text.take p ++ kept) (text.length - p - kept.length) 0 ∧ t.host = s.portOut) ∧
    (text.length ≤ e.cursor →
      (headKey ss.fifo = some (.code 0x4B, rest) →
        ReachesRinging (exec (.keyDelChar l.val) s) (s.setSession l { ss with fifo := rest, message := none }) s l) ∧
      (headKey ss.fifo = some (.code 0x4C, rest) →
        ReachesRinging (exec (.keyDelWord l.val) s) (s.setSession l { ss with fifo := rest, message := none }) s l))

/-- Keys of EDIT that change the edit state, and the entries of MARK, SLUG and PRIORITY. INSERT-TOGGLE changes the text mode,
and MARK, SEND and PRIORITY begin their entries. In a MARK entry a letter is a mark by itself, awaits its digits or turns the
entry to a slug; digits complete it at their greatest number, or at a word space for FONT, SIZE and LEAD; the mark is inserted
in either text mode, its value brought into range, when a block is free and the chain is below its limit, an active fit of the
story is spoiled, and the reviewers' screens follow. In a SLUG entry letters, digits and hyphens are collected up to 16, and a word space gives the story the new
slug, with row 0 marked on every session that shows it, on its holder and on its reviewers, and its row marked where it is
listed. DEL-CHAR takes a character away, or ends the entry. A digit 1 to 3 completes a PRIORITY entry. Any other key cancels
the entry with a bell and "BAD MARK" or "BAD PRIORITY"; a text byte that a slug does not take rings alone. A completed PRIORITY
entry marks the row that lists the story. An unknown key is consumed with a bell in any state (R2, R64, R89, R93, R96 to R98,
R103, R107, R152; that a mark's letter is kept in upper case is the model's own reading, log 47). -/
def Obligations.EntryKeysBeginAndEnd : Prop :=
  ∀ (s : Machine.State) (l : LineNo) (ss : Session) (rest : List Byte), s.session? l = some ss →
    (headKey ss.fifo = some (.unknown, rest) →
      ReachesRinging (exec (.unknownKey l.val) s) (s.setSession l { ss with fifo := rest, message := none }) s l) ∧
    ∀ e, ss.state = .edit → ss.edit = some e →
      let taken : Session := { ss with fifo := rest, message := none }
      let entry (x : Option Entry) : Machine.State := s.setSession l { taken with edit := some { e with entry := x } }
      let bad (text : String) : Machine.State :=
        s.setSession l { taken with message := some (ascii text), edit := some { e with entry := none } }
      (e.entry = none →
        (headKey ss.fifo = some (.code 0x4D, rest) →
          Reaches (exec (.keyInsertToggle l.val) s)
            (s.setSession l { taken with edit := some { e with overstrike := !e.overstrike } })) ∧
        (headKey ss.fifo = some (.code 0x4E, rest) → Reaches (exec (.keyMark l.val) s) (entry (some (.mark [])))) ∧
        (headKey ss.fifo = some (.code 0x53, rest) → Reaches (exec (.keySend l.val) s) (entry (some (.send [])))) ∧
        (headKey ss.fifo = some (.code 0x57, rest) → Reaches (exec (.keyPriority l.val) s) (entry (some .priority)))) ∧
      (e.entry = some .priority →
        (∀ b, headKey ss.fifo = some (.text b, rest) →
          (∀ p, (b = 0x31 ∧ p = Prio.routine) ∨ (b = 0x32 ∧ p = .urgent) ∨ (b = 0x33 ∧ p = .flash) →
            ReachesWith (exec (.textKey l.val) s)
              ((s.modStory e.key.sid fun st => { st with prio := p }).setSession l
                { taken with edit := some { e with entry := none } }) fun t => ListedMarked s t e.key.sid) ∧
          (b ≠ 0x31 → b ≠ 0x32 → b ≠ 0x33 → ReachesRinging (exec (.textKey l.val) s) (bad "BAD PRIORITY") s l)) ∧
        (∀ row ∈ entryKeys, headKey ss.fifo = some (.code row.2, rest) →
          ReachesRinging (exec (row.1 l.val) s) (bad "BAD PRIORITY") s l)) ∧
      (∀ typed, e.entry = some (.mark typed) →
        let inserts (o : Host.Outcome Machine.State Fault Refusal) (c : Cell) : Prop :=
          ∀ st, s.story? e.key.sid = some st → StoreForm s → e.cursor ≤ (s.text e.key.sid).length → st.chain.length < 192 →
            1 ≤ s.freeBlockCount → RunsTo o fun t =>
              TextChanged s t l taken { e with cursor := e.cursor + 1, entry := none } st
                ((s.text e.key.sid).insertIdx e.cursor c.clamped) ∧
              HolderMarked s t l e.key.sid e.top ∧ ReviewersFollow s t e.key.sid e.cursor 0 1
        (∀ b, headKey ss.fifo = some (.text b, rest) →
          let outcome := exec (.textKey l.val) s
          (typed = [] →
            (∀ row ∈ markLetters, toUpper b = row.1 → inserts outcome row.2) ∧
            (toUpper b = 0x53 → Reaches outcome (entry (some (.slug [])))) ∧
            (∀ row ∈ valueLetters, toUpper b = row.1 → Reaches outcome (entry (some (.mark [row.1])))) ∧
            ((∀ row ∈ markLetters, toUpper b ≠ row.1) → toUpper b ≠ 0x53 → (∀ row ∈ valueLetters, toUpper b ≠ row.1) →
              ReachesRinging outcome (bad "BAD MARK") s l)) ∧
          (∀ row ∈ valueLetters, ∀ digits, typed = row.1 :: digits → digits.length < row.2.1 →
            (isDigit b = true →
              (row.2.2.2 (digitsValue (digits ++ [b])) = none → ReachesRinging outcome (bad "BAD MARK") s l) ∧
              (∀ c, row.2.2.2 (digitsValue (digits ++ [b])) = some c →
                (digits.length + 1 < row.2.1 → Reaches outcome (entry (some (.mark (typed ++ [b]))))) ∧
                (digits.length + 1 = row.2.1 → inserts outcome c))) ∧
            (∀ c, b = 0x20 → row.2.2.1 = true → digits ≠ [] → row.2.2.2 (digitsValue digits) = some c → inserts outcome c) ∧
            (isDigit b = false → ¬(b = 0x20 ∧ row.2.2.1 = true ∧ digits ≠ []) →
              ReachesRinging outcome (bad "BAD MARK") s l))) ∧
        (headKey ss.fifo = some (.code 0x4B, rest) →
          Reaches (exec (.keyDelChar l.val) s) (entry (if typed = [] then none else some (.mark typed.dropLast)))) ∧
        (∀ row ∈ entryKeys, row.2 ≠ 0x4B → headKey ss.fifo = some (.code row.2, rest) →
          ReachesRinging (exec (row.1 l.val) s) (bad "BAD MARK") s l)) ∧
      (∀ typed, e.entry = some (.slug typed) →
        (∀ b, headKey ss.fifo = some (.text b, rest) →
          let outcome := exec (.textKey l.val) s
          (isNameChar (toUpper b) = true → typed.length < 16 →
            Reaches outcome (entry (some (.slug (typed ++ [toUpper b]))))) ∧
          (b ≠ 0x20 → isNameChar (toUpper b) = false ∨ 16 ≤ typed.length →
            ReachesRinging outcome (s.setSession l taken) s l) ∧
          (b = 0x20 → typed = [] → ReachesRinging outcome (bad "BAD MARK") s l) ∧
          (b = 0x20 → typed ≠ [] →
            ReachesWith outcome
              ((s.modStory e.key.sid fun st => { st with slug := typed }).setSession l
                { taken with edit := some { e with entry := none } })
              fun t => ShownMarked s t e.key.sid ∧ ListedMarked s t e.key.sid)) ∧
        (headKey ss.fifo = some (.code 0x4B, rest) →
          Reaches (exec (.keyDelChar l.val) s) (entry (if typed = [] then none else some (.slug typed.dropLast)))) ∧
        (∀ row ∈ entryKeys, row.2 ≠ 0x4B → headKey ss.fifo = some (.code row.2, rest) →
          ReachesRinging (exec (row.1 l.val) s) (bad "BAD MARK") s l))

/-- NEW in DIRECTORY. A line that holds a story is refused with "HOLDING" and its slug. Otherwise the lowest FREE record, or with
none FREE the record that a purge of SPIKE's head frees, holds a ROUTINE story, slugged by line and number, HELD by the line
with the profile's default basket for its home, and the session is in EDIT at its start; with no record to be had it is refused
"DIRECTORY FULL". A refusal rings (R11, R19, R20, R88, R89, R99). -/
def Obligations.NewStartsAStory : Prop :=
  ∀ (s : Machine.State) (l : LineNo) (ss : Session) (rest : List Byte) (n : ProfileNo), s.session? l = some ss →
    ss.state = .directory → ss.profile = some n → headKey ss.fifo = some (.code 0x4F, rest) →
    let made (sid : Sid) : Story :=
      { slug := ascii "L" ++ twoDigits l.val ++ [0x2D] ++ decimal (sid.val + 1), prio := .routine, origin := .terminal l,
        home := s.profiles[n].defaultBasket, place := .held l, reviewers := [], format := 0, chain := [], count := 0,
        depth := none, setCount := 0, route := [], truncated := false, overset := false }
    (∀ held st, s.heldBy l = some held → s.story? held = some st →
      ReachesRinging (exec (.keyNew l.val) s)
        (s.setSession l { ss with fifo := rest, message := some (ascii "HOLDING " ++ st.slug) }) s l) ∧
    (∀ sid, s.heldBy l = none → s.lowestFreeRecord = some sid → RunsTo (exec (.keyNew l.val) s) fun t =>
      HasStory s t sid (made sid) ∧
      t.sessionCore l = some (Session.core
        { ss with
          fifo := rest, message := none, state := .edit,
          edit := some { key := s.keyOf sid, cursor := 0, top := 0, overstrike := false, entry := none } }) ∧
      SameRecords s t sid ∧ t.store = s.store ∧ SameBaskets s t [] ∧ t.fitQueue = s.fitQueue ∧ SameElsewhere s t) ∧
    (∀ head more, DirectoryForm s → s.heldBy l = none → s.lowestFreeRecord = none → s.stories spikeBasket = head :: more →
      let gen := (s.dir[head].gen + 1) % 256
      RunsTo (exec (.keyNew l.val) s) fun t =>
        t.dir[head] = { gen := gen, story := some (made head) } ∧ t.stories spikeBasket = more ∧
        t.store = s.store.filter (fun x => !(s.chainOf head).contains x.1) ∧
        (∃ ss', t.session? l = some ss' ∧ ss'.state = .edit ∧ ss'.edit =
          some { key := { sid := head, gen := gen }, cursor := 0, top := 0, overstrike := false, entry := none }) ∧
        Told t (.storyPurged (s.keyOf head)) ∧ SameRecords s t head ∧ SameBaskets s t [spikeBasket] ∧ SameElsewhere s t) ∧
    (s.heldBy l = none → s.lowestFreeRecord = none → s.stories spikeBasket = [] →
      ReachesRinging (exec (.keyNew l.val) s)
        (s.setSession l { ss with fifo := rest, message := some (ascii "DIRECTORY FULL") }) s l)

/-- FETCH and REVIEW. In DIRECTORY with an empty list both ring. FETCH in DIRECTORY of the story the line holds returns to EDIT on
it, and of another story, while it holds one, is refused "HOLDING" with the slug. FETCH of an OPEN story in a basket the profile
takes from makes it HELD by the line, which reviews it no longer, out of its basket, with the session in EDIT, from REVIEW at the
place being read; it is refused "HELD BY", "IN SET", "KILLED" or "NOT PERMITTED" by the story's state and the take mask, and
"GONE" where the reviewed story is no more. In REVIEW a refusal, and a story held already, ends the review, and the session is in
DIRECTORY. REVIEW in DIRECTORY of a story HELD by another line, or OPEN in a basket the profile takes from or watches or with
may-review-any, adds the line to its reviewers, unless it is one, with the session in REVIEW; it is refused "KILLED", "IN SET",
"HELD HERE", "NOT PERMITTED", or "REVIEW FULL" with four others. A refusal rings (R16, R28, R38, R42, R75, R88, R89, R100, R101;
that a refusal of FETCH in REVIEW rings is the model's own reading, log 47). -/
def Obligations.FetchAndReviewClaimAStory : Prop :=
  ∀ (s : Machine.State) (l : LineNo) (ss : Session) (rest : List Byte) (n : ProfileNo), s.session? l = some ss →
    ss.profile = some n →
    let taken : Session := { ss with fifo := rest, message := none }
    let saying (t : List Byte) : Session := { taken with message := some t }
    let start (sid : Sid) : Edit := { key := s.keyOf sid, cursor := 0, top := 0, overstrike := false, entry := none }
    let barred (st : Story) (text : List Byte) : Prop :=
      (∃ h, st.place = .held h ∧ text = ascii "HELD BY L" ++ twoDigits h.val) ∨
      (∃ ch x, (st.place = .queued ch x ∨ st.place = .setting ch x) ∧ text = ascii "IN SET") ∨
      (st.place = .killed ∧ text = ascii "KILLED") ∨
      (∃ b : BasketNo, st.place = .opn b ∧ inMask s.profiles[n].take b = false ∧ text = ascii "NOT PERMITTED")
    let claimed (t : Machine.State) (sid : Sid) (st : Story) (b : BasketNo) (e : Edit) : Prop :=
      HasStory s t sid { st with place := .held l, reviewers := st.reviewers.filter (· != l) } ∧
      t.stories b = (s.stories b).filter (· != sid) ∧ SameBaskets s t [b] ∧ SameRecords s t sid ∧ t.store = s.store ∧
      t.fitQueue = s.fitQueue ∧ (∃ ss', t.session? l = some ss' ∧ ss'.state = .edit ∧ ss'.edit = some e) ∧ SameElsewhere s t
    (∀ v, ss.state = .directory → ss.view = some v →
      let fetch := exec (.keyFetch l.val) s
      let review := exec (.keyReview l.val) s
      ((s.viewOf v)[v.highlight]? = none →
        (headKey ss.fifo = some (.code 0x50, rest) → ReachesRinging fetch (s.setSession l taken) s l) ∧
        (headKey ss.fifo = some (.code 0x51, rest) → ReachesRinging review (s.setSession l taken) s l)) ∧
      ∀ sid st, (s.viewOf v)[v.highlight]? = some sid → s.story? sid = some st →
        (headKey ss.fifo = some (.code 0x50, rest) →
          (∀ held own, s.heldBy l = some held → s.story? held = some own →
            (held = sid → Reaches fetch (s.setSession l { taken with state := .edit, edit := some (start sid) })) ∧
            (held ≠ sid → ReachesRinging fetch (s.setSession l (saying (ascii "HOLDING " ++ own.slug))) s l)) ∧
          (s.heldBy l = none →
            (∀ b : BasketNo, st.place = .opn b → inMask s.profiles[n].take b = true →
              RunsTo fetch fun t => claimed t sid st b (start sid)) ∧
            ∀ text, barred st text → ReachesRinging fetch (s.setSession l (saying text)) s l)) ∧
        (headKey ss.fifo = some (.code 0x51, rest) →
          let permitted : Prop :=
            (∃ h, st.place = .held h ∧ h ≠ l) ∨
            ∃ b : BasketNo, st.place = .opn b ∧ (inMask s.profiles[n].take b = true ∨ inMask s.profiles[n].watch b = true ∨
              s.profiles[n].mayReviewAny = true)
          (permitted → st.reviewers.length < 4 ∨ l ∈ st.reviewers →
            Reaches review
              ((s.modStory sid fun st =>
                  { st with reviewers := if l ∈ st.reviewers then st.reviewers else st.reviewers ++ [l] }).setSession l
                { taken with state := .review, edit := some (start sid) })) ∧
          (permitted → 4 ≤ st.reviewers.length → l ∉ st.reviewers →
            ReachesRinging review (s.setSession l (saying (ascii "REVIEW FULL"))) s l) ∧
          (∀ text,
            (st.place = .killed ∧ text = ascii "KILLED") ∨
            (∃ ch x, (st.place = .queued ch x ∨ st.place = .setting ch x) ∧ text = ascii "IN SET") ∨
            (st.place = .held l ∧ text = ascii "HELD HERE") ∨
            (∃ b : BasketNo, st.place = .opn b ∧ inMask s.profiles[n].take b = false ∧ inMask s.profiles[n].watch b = false ∧
              s.profiles[n].mayReviewAny = false ∧ text = ascii "NOT PERMITTED") →
            ReachesRinging review (s.setSession l (saying text)) s l))) ∧
    ∀ e, ss.state = .review → ss.edit = some e → headKey ss.fifo = some (.code 0x50, rest) →
      let fetch := exec (.keyFetch l.val) s
      let unlisted : Machine.State :=
        s.modStory e.key.sid fun st => { st with reviewers := st.reviewers.filter (· != l) }
      let ends (text : List Byte) : Prop :=
        ReachesRinging fetch (unlisted.setSession l { saying text with state := .directory, edit := none }) s l
      (∀ held own, s.heldBy l = some held → s.story? held = some own → ends (ascii "HOLDING " ++ own.slug)) ∧
      (s.heldBy l = none → s.live? e.key = none → ends (ascii "GONE")) ∧
      ∀ st, s.heldBy l = none → s.live? e.key = some st →
        (∀ text, barred st text → ends text) ∧
        ∀ b : BasketNo, st.place = .opn b → inMask s.profiles[n].take b = true →
          RunsTo fetch fun t => claimed t e.key.sid st b { e with overstrike := false, entry := none }

/-- RELEASE in EDIT returns the story OPEN to its home with no entry in its route history and its reviewers kept. KILL in EDIT
needs may-kill: with it the story is KILLED at the tail of SPIKE with no reviewers and STORY_KILLED is queued, and without it
the key is refused "NOT PERMITTED" with a bell. SEND's two digits name a basket: one above 23 is refused "NO SUCH BASKET", one
outside the send mask "NOT PERMITTED", each with a bell and the entry ended; otherwise the story is OPEN there and at home
there, with an entry in its route history if it came from another. DEL-CHAR takes a digit away or ends the entry, and any other
key cancels it with a bell and "BAD BASKET". A session that leaves EDIT is in DIRECTORY (R22, R27, R30, R33, R97, R102, R103,
R104). -/
def Obligations.ReleaseAndKillKeysEndAnEdit : Prop :=
  (∀ (s : Machine.State) (l : LineNo) (ss : Session) (e : Edit) (rest : List Byte) (n : ProfileNo) (st : Story),
    s.session? l = some ss → ss.state = .edit → ss.edit = some e → e.entry = none → ss.profile = some n →
    s.story? e.key.sid = some st → st.place = .held l → st.home.val ≤ 22 →
    let sid := e.key.sid
    (headKey ss.fifo = some (.code 0x52, rest) → RunsTo (exec (.keyRelease l.val) s) fun t =>
      HasStory s t sid { st with place := .opn st.home } ∧ t.stories st.home = bandedIn t sid (s.stories st.home) ∧
      SameBaskets s t [st.home] ∧ SameRecords s t sid ∧ t.store = s.store ∧ t.fitQueue = s.fitQueue ∧
      t.sessionCore l = some (Session.core { ss with fifo := rest, message := none, state := .directory, edit := none }) ∧
      Told t (.storyArrived (s.keyOf sid) st.home st.prio) ∧ SameElsewhere s t) ∧
    (headKey ss.fifo = some (.code 0x54, rest) → s.profiles[n].mayKill = true → RunsTo (exec (.keyKill l.val) s) fun t =>
      HasStory s t sid { st with place := .killed, reviewers := [] } ∧
      t.stories spikeBasket = s.stories spikeBasket ++ [sid] ∧ SameBaskets s t [spikeBasket] ∧ SameRecords s t sid ∧
      t.store = s.store ∧ t.fitting sid = false ∧
      t.sessionCore l = some (Session.core
        { ss with fifo := rest, message := some (ascii "KILLED"), state := .directory, edit := none }) ∧
      Told t (.storyKilled (s.keyOf sid)) ∧ SameElsewhere s t) ∧
    (headKey ss.fifo = some (.code 0x54, rest) → s.profiles[n].mayKill = false →
      ReachesRinging (exec (.keyKill l.val) s)
        (s.setSession l { ss with fifo := rest, message := some (ascii "NOT PERMITTED") }) s l)) ∧
  ∀ (s : Machine.State) (l : LineNo) (ss : Session) (e : Edit) (rest typed : List Byte) (n : ProfileNo) (st : Story),
    s.session? l = some ss → ss.state = .edit → ss.edit = some e → e.entry = some (.send typed) → ss.profile = some n →
    s.story? e.key.sid = some st → st.place = .held l → st.home.val ≤ 22 →
    let sid := e.key.sid
    let taken : Session := { ss with fifo := rest, message := none }
    let entry (x : Option Entry) : Machine.State := s.setSession l { taken with edit := some { e with entry := x } }
    let bad (text : String) : Machine.State :=
      s.setSession l { taken with message := some (ascii text), edit := some { e with entry := none } }
    (∀ b, headKey ss.fifo = some (.text b, rest) → 0x30 ≤ b.toNat → b.toNat ≤ 0x39 →
      (typed = [] → Reaches (exec (.textKey l.val) s) (entry (some (.send [b])))) ∧
      (∀ a, typed = [a] →
        let number := (a.toNat - 0x30) * 10 + (b.toNat - 0x30)
        (23 < number → ReachesRinging (exec (.textKey l.val) s) (bad "NO SUCH BASKET") s l) ∧
        (∀ target : BasketNo, target.val = number →
          (inMask s.profiles[n].send target = false →
            ReachesRinging (exec (.textKey l.val) s) (bad "NOT PERMITTED") s l) ∧
          (inMask s.profiles[n].send target = true → RunsTo (exec (.textKey l.val) s) fun t =>
            HasStory s t sid
              { st with
                place := .opn target, home := target,
                route :=
                  if st.home = target then st.route
                  else ({ source := st.home, target := target, mover := some l } :: st.route).take 4 } ∧
            t.stories target = bandedIn t sid (s.stories target) ∧ SameBaskets s t [target] ∧ SameRecords s t sid ∧
            t.store = s.store ∧ t.fitQueue = s.fitQueue ∧
            t.sessionCore l = some (Session.core { taken with state := .directory, edit := none }) ∧
            Told t (.storyArrived (s.keyOf sid) target st.prio) ∧ SameElsewhere s t)))) ∧
    (∀ b, headKey ss.fifo = some (.text b, rest) → b.toNat < 0x30 ∨ 0x39 < b.toNat →
      ReachesRinging (exec (.textKey l.val) s) (bad "BAD BASKET") s l) ∧
    (headKey ss.fifo = some (.code 0x4B, rest) →
      Reaches (exec (.keyDelChar l.val) s) (entry (if typed = [] then none else some (.send typed.dropLast)))) ∧
    (∀ row ∈ entryKeys, row.2 ≠ 0x4B → headKey ss.fifo = some (.code row.2, rest) →
      ReachesRinging (exec (row.1 l.val) s) (bad "BAD BASKET") s l)

/-- SET in EDIT, and FIT in EDIT and in DIRECTORY. SET with may-set queues a story job for the held story, with its home as
after-basket and the line as queuer, on the profile's default channel, and the session returns to DIRECTORY with "QUEUED ON".
On an OFFLINE, RUNNING or PAUSED channel the story is QUEUED behind the jobs there, and a job that runs is not disturbed; on an
IDLE channel the job at the queue's head, the new one where none waits, starts at once with its stories SETTING. Without the
right SET is refused "NOT PERMITTED", and with 32 jobs queued "SET QUEUE FULL". FIT asks for a fit of the held story, or in
DIRECTORY of the highlighted one, where it is refused "KILLED" or "GONE", and rings on an empty list. With an empty fit queue
the story is fitted at once; with others there a waiting entry joins the tail; both mark row 0 on its holder and its reviewers;
an entry that is there takes the request, and repeats if its fit is outdated; and with 16 entries, none of them the story's, FIT
is refused "FIT BUSY". A refusal rings (R72, R75, R89, R105, R106, R130, R149 to R151, R158, R159, R161, R164; that a running job waits for an event, a premise here, is kept by
every step, EveryStepKeepsTheStore). -/
def Obligations.SetAndFitKeysQueueTheStory : Prop :=
  (∀ (s : Machine.State) (l : LineNo) (ss : Session) (e : Edit) (rest : List Byte) (n : ProfileNo) (st : Story),
    s.session? l = some ss → ss.state = .edit → ss.edit = some e → e.entry = none → ss.profile = some n →
    s.story? e.key.sid = some st → st.place = .held l → headKey ss.fifo = some (.code 0x55, rest) →
    let sid := e.key.sid
    let ch := s.profiles[n].defaultChannel
    let job : Job :=
      { number := (s.chan ch).counter, page := false, rush := false, queuer := some l, after := some st.home,
        segments := [{ key := s.keyOf sid, measure := 0, depth := 0, column := 0, top := 0 }], running := false }
    let next := if (s.chan ch).counter = 65535 then 1 else (s.chan ch).counter + 1
    let queued (t : Machine.State) : Prop := HasStory s t sid { st with place := .queued ch (s.chan ch).counter }
    let left (t : Machine.State) : Prop :=
      SameBaskets s t [] ∧ t.store = s.store ∧ t.fitQueue = s.fitQueue ∧
      t.sessionCore l = some (Session.core
        { ss with fifo := rest, message := some (ascii "QUEUED ON " ++ chanName ch), state := .directory, edit := none }) ∧
      (∀ other, other ≠ ch → t.chan other = s.chan other) ∧ SameLines s t ∧ SameSettings s t
    let refused (text : String) : Prop :=
      ReachesRinging (exec (.keySet l.val) s) (s.setSession l { ss with fifo := rest, message := some (ascii text) }) s l
    (s.profiles[n].maySet = true → (s.chan ch).queue.length < 32 → (s.chan ch).state ≠ .idle → s.jobAtRest ch →
      RunsTo (exec (.keySet l.val) s) fun t =>
        queued t ∧ SameRecords s t sid ∧ left t ∧
        t.chan ch = { s.chan ch with counter := next, queue := (s.chan ch).queue ++ [job] }) ∧
    (s.profiles[n].maySet = true → (s.chan ch).queue = [] → (s.chan ch).state = .idle → RunsTo (exec (.keySet l.val) s) fun t =>
      JobStarted s t ch job [] [] ∧ SameRecords s t sid ∧ left t ∧ (t.chan ch).counter = next) ∧
    (∀ head more, s.profiles[n].maySet = true → (s.chan ch).queue = head :: more → more.length < 31 →
      (s.chan ch).state = .idle → DirectoryForm s → RunsTo (exec (.keySet l.val) s) fun t =>
        JobStarted s t ch head (more ++ [job]) [] ∧ queued t ∧ left t ∧ (t.chan ch).counter = next ∧
        ∀ x : Sid, x ≠ sid → (∀ g ∈ head.segments, g.key.sid ≠ x) → t.dir[x] = s.dir[x]) ∧
    (s.profiles[n].maySet = false → refused "NOT PERMITTED") ∧
    (s.profiles[n].maySet = true → 32 ≤ (s.chan ch).queue.length → refused "SET QUEUE FULL")) ∧
  ∀ (s : Machine.State) (l : LineNo) (ss : Session) (rest : List Byte), s.session? l = some ss →
    headKey ss.fifo = some (.code 0x56, rest) →
    let fit := exec (.keyFit l.val) s
    let taken : Session := { ss with fifo := rest, message := none }
    let refused (text : String) : Prop :=
      ReachesRinging fit (s.setSession l { taken with message := some (ascii text) }) s l
    let asked (sid : Sid) (st : Story) : Prop :=
      let fits (queue : List FitEntry) (more : Machine.State → Prop) : Prop :=
        ReachesWith fit (State.setSession l taken { s with fitQueue := queue }) more
      (s.fitQueue = [] →
        fits [{ key := s.keyOf sid,
                active := some
                  { spoiled := false, outdated := false, again := false, formatNo := st.format,
                    format := s.formats[st.format], widths := s.widths, fitter := Fitter.start } }]
          fun t => ShownMarked s t sid) ∧
      (∀ e more, s.fitQueue = e :: more → e.active.isSome = true → s.fitting sid = false → s.fitQueue.length < 16 →
        fits (s.fitQueue ++ [{ key := s.keyOf sid, active := none }]) fun t => ShownMarked s t sid) ∧
      (s.fitting sid = true →
        fits (s.fitQueue.map fun e =>
          if e.key.sid = sid then { e with active := e.active.map fun r => if r.outdated then { r with again := true } else r }
          else e) fun _ => True) ∧
      (s.fitting sid = false → 16 ≤ s.fitQueue.length → refused "FIT BUSY")
    (∀ e st, ss.state = .edit → ss.edit = some e → e.entry = none → s.story? e.key.sid = some st → st.place = .held l →
      asked e.key.sid st) ∧
    ∀ v, ss.state = .directory → ss.view = some v →
      ((s.viewOf v)[v.highlight]? = none → ReachesRinging fit (s.setSession l taken) s l) ∧
      ∀ sid, (s.viewOf v)[v.highlight]? = some sid →
        (s.story? sid = none → refused "GONE") ∧
        ∀ st, s.story? sid = some st →
          (st.place = .killed → refused "KILLED") ∧ (st.place ≠ .killed → st.place ≠ .intake → asked sid st)

/-- The keys that end a review, and the keys that the session's state does not take. In REVIEW, NEW, REVIEW, RELEASE, SEND,
KILL, SET, FIT, PRIORITY, NEXT-BASKET and PREV-BASKET take the line off the story's reviewers and return the session to
DIRECTORY, and do nothing further. In DIRECTORY, RELEASE, SEND, KILL, SET and PRIORITY are refused "NOT IN EDIT" with a bell; a
text byte, DEL-CHAR, DEL-WORD, INSERT-TOGGLE and MARK ring. In EDIT with no entry in progress, NEW is refused "HOLDING" with
the story's slug and REVIEW "HELD HERE", each with a bell, and FETCH rings. Nothing else changes (R16, R64, R89, R101). -/
def Obligations.KeysEndAReviewOrAreTurnedAway : Prop :=
  ∀ (s : Machine.State) (l : LineNo) (ss : Session) (rest : List Byte), s.session? l = some ss →
    let taken : Session := { ss with fifo := rest, message := none }
    let rings (c : Instr) : Prop := ReachesRinging (exec c s) (s.setSession l taken) s l
    let refused (c : Instr) (text : List Byte) : Prop :=
      ReachesRinging (exec c s) (s.setSession l { taken with message := some text }) s l
    (∀ row ∈ entryKeys, headKey ss.fifo = some (.code row.2, rest) →
      (∀ e, ss.state = .review → ss.edit = some e →
        row.2 ∈ [0x4F, 0x51, 0x52, 0x53, 0x54, 0x55, 0x56, 0x57, 0x58, 0x59] →
        Reaches (exec (row.1 l.val) s)
          ((s.modStory e.key.sid fun st => { st with reviewers := st.reviewers.filter (· != l) }).setSession l
            { taken with state := .directory, edit := none })) ∧
      (ss.state = .directory → row.2 ∈ [0x52, 0x53, 0x54, 0x55, 0x57] → refused (row.1 l.val) (ascii "NOT IN EDIT")) ∧
      (ss.state = .directory → row.2 ∈ [0x4B, 0x4C, 0x4D, 0x4E] → rings (row.1 l.val))) ∧
    (∀ b, ss.state = .directory → headKey ss.fifo = some (.text b, rest) → rings (.textKey l.val)) ∧
    ∀ e, ss.state = .edit → ss.edit = some e → e.entry = none →
      (∀ st, headKey ss.fifo = some (.code 0x4F, rest) → s.story? e.key.sid = some st →
        refused (.keyNew l.val) (ascii "HOLDING " ++ st.slug)) ∧
      (headKey ss.fifo = some (.code 0x50, rest) → rings (.keyFetch l.val)) ∧
      (headKey ss.fifo = some (.code 0x51, rest) → refused (.keyReview l.val) (ascii "HELD HERE"))

/-- NEXT-BASKET and PREV-BASKET show the next basket of the profile's view set, up or down from the one shown and wrapping at
the end, with the view at its top; with one basket in the set it is shown again. In EDIT they return the session to DIRECTORY
with the story still held. ACK clears the session's alert, with none changes nothing, and in DARK rings (R39, R41, R64, R65,
R75, R84, R89). -/
def Obligations.BasketAndAckKeys : Prop :=
  ∀ (s : Machine.State) (l : LineNo) (ss : Session) (rest : List Byte), s.session? l = some ss →
    (∀ n v shown b, ss.state = .directory → ss.profile = some n → ss.view = some v → v.basket = some shown →
      (headKey ss.fifo = some (.code 0x58, rest) →
        (s.profiles[n].inView b = true ∧
          ((shown < b ∧ ∀ x, shown < x → x < b → s.profiles[n].inView x = false) ∨
            ((∀ x, shown < x → s.profiles[n].inView x = false) ∧ ∀ x, x < b → s.profiles[n].inView x = false))) →
        ReachesWith (exec (.keyNextBasket l.val) s)
          (s.setSession l
            { ss with fifo := rest, message := none, view := some { basket := some b, top := 0, highlight := 0 } })
          fun t => ShowsView t l { basket := some b, top := 0, highlight := 0 }) ∧
      (headKey ss.fifo = some (.code 0x59, rest) →
        (s.profiles[n].inView b = true ∧
          ((b < shown ∧ ∀ x, b < x → x < shown → s.profiles[n].inView x = false) ∨
            ((∀ x, x < shown → s.profiles[n].inView x = false) ∧ ∀ x, b < x → s.profiles[n].inView x = false))) →
        ReachesWith (exec (.keyPrevBasket l.val) s)
          (s.setSession l
            { ss with fifo := rest, message := none, view := some { basket := some b, top := 0, highlight := 0 } })
          fun t => ShowsView t l { basket := some b, top := 0, highlight := 0 })) ∧
    (∀ e, ss.state = .edit → ss.edit = some e → e.entry = none →
      (headKey ss.fifo = some (.code 0x58, rest) →
        Reaches (exec (.keyNextBasket l.val) s)
          (s.setSession l { ss with fifo := rest, message := none, state := .directory, edit := none })) ∧
      (headKey ss.fifo = some (.code 0x59, rest) →
        Reaches (exec (.keyPrevBasket l.val) s)
          (s.setSession l { ss with fifo := rest, message := none, state := .directory, edit := none }))) ∧
    (headKey ss.fifo = some (.code 0x5A, rest) →
      (ss.state ≠ .dark → ss.alert.isSome = true →
        Reaches (exec (.keyAck l.val) s)
          (s.setSession l
            { ss with fifo := rest, message := none, alert := none, blinkOn := true, blinkTimer := none })) ∧
      (ss.state ≠ .dark → ss.alert = none →
        Reaches (exec (.keyAck l.val) s) (s.setSession l { ss with fifo := rest, message := none })) ∧
      (ss.state = .dark →
        ReachesRinging (exec (.keyAck l.val) s) (s.setSession l { ss with fifo := rest, message := none }) s l))

/-! ## Wire intake -/

/-- The framing bytes, the heading and the idle or broken circuit outside a body. The character leaves the slot. A start byte
begins an empty heading in SEEK, HEADING and SKIP; an end byte in a heading, and an idle in HEADING and NOISY, go to SEEK; a
break goes to NOISY; otherwise the state stands. A printable character joins a heading of fewer than 40; any other good
character but a CR or LF is dropped there, and outside a heading every good character is. A character with an error joins the
heading as a substitute 0x7F and raises the error run, and the eighth takes the intake to NOISY with a LINE_FAULT of reason
NOISE; in SEEK, SKIP and NOISY it is dropped (R110 to R112, R117). -/
def Obligations.IntakeMovesBetweenItems : Prop :=
  ∀ (s : Machine.State) (l : LineNo) (ik : Intake), s.lines[l].owner = .wire ik → ik.state ≠ .body →
    let emptied (st : IntakeState) : Intake := { ik with state := st, heading := [], item := none, sep := .none, errorRun := 0 }
    let after (x : Intake) : Machine.State :=
      { s with lines := s.lines.set l { s.lines[l] with slot := none, owner := .wire { x with afterCr := false } } }
    let acted (x : Intake) (handed : List Handed) : Machine.State :=
      { s with lines := s.lines.set l { s.lines[l] with owner := .wire { x with handed := handed } } }
    (s.lines[l].slot = some { byte := 0x01, status := .good } →
      Reaches (exec (.wireStartByte l.val) s) (after (if ik.state = .noisy then ik else emptied .heading))) ∧
    (s.lines[l].slot = some { byte := 0x04, status := .good } →
      Reaches (exec (.wireEndByte l.val) s) (after (if ik.state = .heading then emptied .seek else ik))) ∧
    (∀ b, s.lines[l].slot = some { byte := b, status := .good } → 0x20 ≤ b.toNat → b.toNat ≤ 0x7E →
      (ik.state = .heading →
        Reaches (exec (.intakeCharacter l.val) s)
          (after { ik with errorRun := 0, heading := if ik.heading.length < 40 then ik.heading ++ [b] else ik.heading })) ∧
      (ik.state ≠ .heading → Reaches (exec (.intakeCharacter l.val) s) (after { ik with errorRun := 0 }))) ∧
    (∀ b, s.lines[l].slot = some { byte := b, status := .good } → b.toNat < 0x20 ∨ 0x7E < b.toNat → b ≠ 0x01 → b ≠ 0x04 →
      ik.state ≠ .heading ∨ (b ≠ 0x0D ∧ b ≠ 0x0A) →
      Reaches (exec (.intakeCharacter l.val) s) (after { ik with errorRun := 0 })) ∧
    (∀ b status, s.lines[l].slot = some { byte := b, status := status } → status ≠ .good →
      (ik.state = .heading → ik.errorRun < 7 →
        Reaches (exec (.intakeCharacter l.val) s)
          (after
            { ik with
              errorRun := ik.errorRun + 1, heading := if ik.heading.length < 40 then ik.heading ++ [0x7F] else ik.heading })) ∧
      (ik.state = .heading → 7 ≤ ik.errorRun →
        Reaches (exec (.intakeCharacter l.val) s) ((after (emptied .noisy)).offer (.lineFault l true))) ∧
      (ik.state ≠ .heading → Reaches (exec (.intakeCharacter l.val) s) (after ik))) ∧
    (∀ more, ik.handed = .brk :: more → Reaches (exec (.intakeBreak l.val) s) (acted (emptied .noisy) more)) ∧
    (∀ more, ik.handed = .idle :: more →
      Reaches (exec (.intakeIdle l.val) s)
        (acted (if ik.state = .heading ∨ ik.state = .noisy then emptied .seek else ik) more))

/-- What a heading says, and an item from its heading to its end. The first character is its service, a letter in either case;
the second its priority, 1 FLASH, 2 URGENT, else ROUTINE; the next four its item number, 0 unless all are digits; and behind a
space in the seventh place its slug, at most 16 characters in upper case with a hyphen for any outside the set, or else the
service, a hyphen and the item number. A CR or LF ends a heading. With its service accepted the lowest FREE record holds a
story in INTAKE with the heading's slug, priority, service and number, and the intake is in BODY; with no record to be had, by
purge either, WIRE_SKIPPED is queued and the item skipped; so is one whose service is invalid or not accepted. In a body a
space or TAB makes a pending separator of none a word space; an LF makes none or a word space one line end, and one line end
two, but for an LF right behind the CR that ended the heading; and a CR, any other control, 0x7F and 0xA0 to 0xFF are dropped.
A body character, 0x21 to 0x7E or 0x80 to 0x9F, is written with a word space before it for a pending word space or one line
end, a PARA for two, and nothing before the first; a character with an error is written so as the substitute 0x7F and raises
the error run; a character written spoils an active fit of the story. A character that needs a block with fewer than 65 free purges SPIKE from its head, then the WIRE stories that
reclaim may take, until 65 are. An item with cells ends at an end byte, a start byte, an idle or a break, at a write the store
refuses for size or for space, and at the eighth substitute of a run: its story is OPEN in WIRE at the tail of its band,
TRUNCATED by the last four, and WIRE_ITEM is queued. Its earlier copies OPEN in WIRE are then KILLED in SPIKE, in order, each
with WIRE_SUPERSEDED. An item of no cells leaves its record FREE and no notice (R10 to R12, R109, R111 to R119, R152; worked examples
6.6.1 and 6.6.2 have a second space that R113 has not, log 33). -/
def Obligations.IntakeMakesAStoryOfAnItem : Prop :=
  (∀ h : List Byte,
    let upper (b : Byte) : Byte := if 0x61 ≤ b.toNat ∧ b.toNat ≤ 0x7A then b - 0x20 else b
    let letter (b : Byte) : Prop := 0x41 ≤ (upper b).toNat ∧ (upper b).toNat ≤ 0x5A
    let digit (b : Byte) : Prop := 0x30 ≤ b.toNat ∧ b.toNat ≤ 0x39
    let name (b : Byte) : Prop := letter b ∨ digit b ∨ b = 0x2D
    let read := readHeading h
    (∀ a more, h = a :: more → letter a → read.service = some (upper a)) ∧
    (∀ a more, h = a :: more → ¬letter a → read.service = none) ∧ (h = [] → read.service = none) ∧
    (h[1]? = some 0x31 → read.prio = .flash) ∧ (h[1]? = some 0x32 → read.prio = .urgent) ∧
    (h[1]? ≠ some 0x31 → h[1]? ≠ some 0x32 → read.prio = .routine) ∧
    (∀ a b d1 d2 d3 d4 more, h = a :: b :: d1 :: d2 :: d3 :: d4 :: more → digit d1 → digit d2 → digit d3 → digit d4 →
      read.item + 53328 = d1.toNat * 1000 + d2.toNat * 100 + d3.toNat * 10 + d4.toNat) ∧
    ((∃ i, 2 ≤ i ∧ i ≤ 5 ∧ ∀ d, h[i]? = some d → ¬digit d) → read.item = 0) ∧
    (∀ front text, h = front ++ 0x20 :: text → front.length = 6 → text ≠ [] →
      read.slug.length = Nat.min 16 text.length ∧
      ∀ i b, i < 16 → text[i]? = some b →
        (name b → read.slug[i]? = some (upper b)) ∧ (¬name b → read.slug[i]? = some 0x2D)) ∧
    (∀ a, h[6]? ≠ some 0x20 ∨ h.length = 7 → read.service = some a →
      ∃ d1 d2 d3 d4, read.slug = [a, 0x2D, d1, d2, d3, d4] ∧ digit d1 ∧ digit d2 ∧ digit d3 ∧ digit d4 ∧
        read.item + 53328 = d1.toNat * 1000 + d2.toNat * 100 + d3.toNat * 10 + d4.toNat)) ∧
  ∀ (s : Machine.State) (l : LineNo) (ik : Intake), s.lines[l].owner = .wire ik →
    (∀ h b, ik.state = .heading → b = 0x0D ∨ b = 0x0A → s.lines[l].slot = some { byte := b, status := .good } →
      h = readHeading ik.heading →
      let left (state : IntakeState) (skipped : Nat) : Intake :=
        { ik with
          state := state, heading := [], item := none, sep := .none, errorRun := 0, skipped := skipped, afterCr := b == 0x0D }
      let skipping (skipped : Nat) : Machine.State :=
        { s with lines := s.lines.set l { s.lines[l] with slot := none, owner := .wire (left .skip skipped) } }
      (∀ service sid, h.service = some service → accepts s.lines[l].accept service = true → s.lowestFreeRecord = some sid →
        RunsTo (exec (.intakeCharacter l.val) s) fun t =>
          HasStory s t sid
            { slug := h.slug, prio := h.prio, origin := .wire l service h.item, home := wireBasket, place := .intake,
              reviewers := [], format := 0, chain := [], count := 0, depth := none, setCount := 0, route := [],
              truncated := false, overset := false } ∧
          t.intake? l = some
            { left .body ik.skipped with item := some { key := s.keyOf sid, service := service, number := h.item } } ∧
          SameRecords s t sid ∧ SameBaskets s t [] ∧ t.store = s.store) ∧
      (∀ service, h.service = some service → accepts s.lines[l].accept service = true → s.lowestFreeRecord = none →
        s.stories spikeBasket = [] →
        let n := Nat.min 65535 (ik.skipped + 1)
        Reaches (exec (.intakeCharacter l.val) s) ((skipping n).offer (.wireSkipped l service h.item h.slug n))) ∧
      ((∀ service, h.service = some service → accepts s.lines[l].accept service = false) →
        Reaches (exec (.intakeCharacter l.val) s) (skipping ik.skipped))) ∧
    ∀ it st, ik.state = .body → ik.item = some it → s.story? it.key.sid = some st → st.place = .intake →
      let sid := it.key.sid
      let lastFull := ∃ b, st.chain.getLast? = some b ∧ (blockCells s.store b).length = 64
      let unique := it.number = 0 ∨ s.earlierCopies it.service it.number = []
      let goesOn (next : IntakeState) (handed : List Handed) (afterCr : Bool) : Intake :=
        { ik with
          state := next, heading := [], item := none, sep := .none, errorRun := 0, handed := handed, afterCr := afterCr }
      let isBody (b : Byte) : Prop := (0x21 ≤ b.toNat ∧ b.toNat ≤ 0x7E) ∨ (0x80 ≤ b.toNat ∧ b.toNat ≤ 0x9F)
      let before : List Cell :=
        if st.count = 0 then []
        else
          match ik.sep with
          | .none => []
          | .space | .oneLineEnd => [.space]
          | .twoLineEnds => [.para]
      let text (code : Byte) : List Cell := s.text sid ++ before ++ [.char code]
      let written (t : Machine.State) (code : Byte) : Prop :=
        t.text sid = text code ∧ Spoils s t sid ∧ OtherBlocksKept s t sid ∧ SameRecords s t sid
      let longer (t : Machine.State) (code : Byte) : Prop :=
        ∃ chain, HasStory s t sid
          { st with
            chain := chain, count := (text code).length, depth := st.depth.map fun d => { d with stale := true } }
      let needsBlock : Prop :=
        st.chain = [] ∨ 64 < (blockCells s.store (st.chain.getLastD 0)).length + before.length + 1
      (∀ b, s.lines[l].slot = some { byte := b, status := .good } → ¬isBody b → b ≠ 0x01 → b ≠ 0x04 →
        let sep : Sep :=
          if ik.afterCr = true ∧ b = 0x0A then ik.sep
          else if b = 0x20 ∨ b = 0x09 then (if ik.sep = .none then .space else ik.sep)
          else if b = 0x0A then (if ik.sep = .none ∨ ik.sep = .space then .oneLineEnd else .twoLineEnds)
          else ik.sep
        Reaches (exec (.intakeCharacter l.val) s)
          { s with
            lines := s.lines.set l
              { s.lines[l] with
                slot := none, owner := .wire { ik with sep := sep, errorRun := 0, afterCr := false } } }) ∧
      (∀ b status code run, s.lines[l].slot = some { byte := b, status := status } →
        (status = .good ∧ isBody b ∧ code = b ∧ run = 0) ∨
          (status ≠ .good ∧ ik.errorRun < 7 ∧ code = 0x7F ∧ run = ik.errorRun + 1) → StoreForm s →
        let goes (t : Machine.State) : Prop :=
          longer t code ∧ t.intake? l = some { ik with sep := .none, errorRun := run, afterCr := false }
        (¬needsBlock ∨ (st.chain.length < 192 ∧ 65 ≤ s.freeBlockCount) → RunsTo (exec (.intakeCharacter l.val) s) fun t =>
          written t code ∧ goes t ∧ SameBaskets s t [] ∧ t.host = s.portOut) ∧
        (∀ front head more, needsBlock → st.chain.length < 192 → DirectoryForm s →
          s.stories spikeBasket ++ s.wireCandidates = front ++ head :: more →
          let blocks (of : List Sid) : Nat := (of.map fun x => (s.chainOf x).length).sum
          s.freeBlockCount + blocks front < 65 → 65 ≤ s.freeBlockCount + blocks (front ++ [head]) →
          RunsTo (exec (.intakeCharacter l.val) s) fun t =>
            t.text sid = text code ∧ goes t ∧
            (∀ x ∈ front ++ [head], t.dir[x] = { gen := (s.dir[x].gen + 1) % 256, story := none } ∧
              Told t (.storyPurged (s.keyOf x))) ∧
            (∀ x : Sid, x ≠ sid → x ∉ front ++ [head] → t.dir[x] = s.dir[x]) ∧
            ((∀ e ∈ s.fitQueue, e.key.sid ∉ front ++ [head]) → Spoils s t sid) ∧
            ∀ b, t.stories b = (s.stories b).filter fun x => !(front ++ [head]).contains x)) ∧
      (∀ b status, s.lines[l].slot = some { byte := b, status := status } → status ≠ .good → StoreForm s →
        st.chain.length < 192 → 65 ≤ s.freeBlockCount →
        (7 ≤ ik.errorRun → unique →
          RunsTo (exec (.intakeCharacter l.val) s) fun t =>
            let n := (t.text sid).length
            written t 0x7F ∧
            (∃ chain, HasStory s t sid
              { st with
                chain := chain, count := n, depth := st.depth.map (fun d => { d with stale := true }),
                place := .opn wireBasket, truncated := true }) ∧
            t.stories wireBasket = bandedIn t sid (s.stories wireBasket) ∧ SameBaskets s t [wireBasket] ∧
            Told t (.wireItem it.key l it.service it.number st.prio n .noise true 0) ∧ Told t (.lineFault l true) ∧
            t.intake? l = some (goesOn .noisy ik.handed false))) ∧
      (st.count ≠ 0 →
        let ended (t : Machine.State) (cause : EndCause) (cut : Bool) (next : IntakeState) (handed : List Handed) : Prop :=
          HasStory s t sid { st with place := .opn wireBasket, truncated := st.truncated || cut } ∧
          t.stories wireBasket = bandedIn t sid (s.stories wireBasket) ∧ SameBaskets s t [wireBasket] ∧
          SameRecords s t sid ∧ t.store = s.store ∧
          Told t (.wireItem it.key l it.service it.number st.prio st.count cause cut 0) ∧
          t.intake? l = some (goesOn next handed (if cause = .idle ∨ cause = .brk then ik.afterCr else false))
        (unique →
          (s.lines[l].slot = some { byte := 0x04, status := .good } →
            RunsTo (exec (.wireEndByte l.val) s) fun t => ended t .endByte false .seek ik.handed) ∧
          (s.lines[l].slot = some { byte := 0x01, status := .good } →
            RunsTo (exec (.wireStartByte l.val) s) fun t => ended t .newStart false .heading ik.handed) ∧
          (∀ more, ik.handed = .idle :: more →
            RunsTo (exec (.intakeIdle l.val) s) fun t => ended t .idle false .seek more) ∧
          (∀ more, ik.handed = .brk :: more →
            RunsTo (exec (.intakeBreak l.val) s) fun t => ended t .brk true .noisy more) ∧
          (∀ b status, s.lines[l].slot = some { byte := b, status := status } →
            status ≠ .good ∨ isBody b → lastFull →
            (st.chain.length = 192 →
              RunsTo (exec (.intakeCharacter l.val) s) fun t => ended t .size true .skip ik.handed) ∧
            (st.chain.length < 192 → s.freeBlockCount < 65 → s.stories spikeBasket = [] → s.wireCandidates = [] →
              RunsTo (exec (.intakeCharacter l.val) s) fun t => ended t .space true .skip ik.handed))) ∧
        (it.number ≠ 0 → DirectoryForm s → s.lines[l].slot = some { byte := 0x04, status := .good } →
          let copies := s.earlierCopies it.service it.number
          RunsTo (exec (.wireEndByte l.val) s) fun t =>
            HasStory s t sid { st with place := .opn wireBasket } ∧
            (∀ x ∈ copies, ∀ old, s.story? x = some old →
              HasStory s t x { old with place := .killed, reviewers := [] } ∧
              Told t (.wireSuperseded (s.keyOf x) it.key it.service it.number)) ∧
            t.stories spikeBasket = s.stories spikeBasket ++ copies ∧
            t.stories wireBasket = bandedIn t sid ((s.stories wireBasket).filter fun x => !copies.contains x) ∧
            SameBaskets s t [wireBasket, spikeBasket] ∧ (∀ x : Sid, x ≠ sid → x ∉ copies → t.dir[x] = s.dir[x]) ∧
            t.store = s.store ∧
            Told t (.wireItem it.key l it.service it.number st.prio st.count .endByte false copies.length) ∧
            t.intake? l = some (goesOn .seek ik.handed false))) ∧
      (st.count = 0 → st.chain = [] →
        let emptied (t : Machine.State) (next : IntakeState) (handed : List Handed) (afterCr : Bool) : Prop :=
          t.dir[sid] = { gen := (s.dir[sid].gen + 1) % 256, story := none } ∧ SameRecords s t sid ∧ SameBaskets s t [] ∧
          t.store = s.store ∧ t.host = s.portOut ∧ t.intake? l = some (goesOn next handed afterCr)
        (s.lines[l].slot = some { byte := 0x04, status := .good } →
          RunsTo (exec (.wireEndByte l.val) s) fun t => emptied t .seek ik.handed false) ∧
        (s.lines[l].slot = some { byte := 0x01, status := .good } →
          RunsTo (exec (.wireStartByte l.val) s) fun t => emptied t .heading ik.handed false) ∧
        (∀ more, ik.handed = .idle :: more →
          RunsTo (exec (.intakeIdle l.val) s) fun t => emptied t .seek more ik.afterCr) ∧
        (∀ more, ik.handed = .brk :: more →
          RunsTo (exec (.intakeBreak l.val) s) fun t => emptied t .noisy more ik.afterCr))

/-! ## Setting channels and the fit unit -/

/-- A flow byte ends a GOOD frame on a channel's bound line, and is kept as the last status byte. READY brings an OFFLINE
channel to IDLE, and a job that waits at its head starts at once; on an IDLE or RUNNING channel it changes nothing but the
flow; it takes a PAUSED channel back to RUNNING with the stall timer stopped and the waiting code placed. NOT READY takes an
IDLE channel OFFLINE with reason NOT_READY and a RUNNING one that waits for staging to PAUSED with the stall timer started; in
any other state it changes nothing but the flow. FAULT takes an IDLE or OFFLINE channel OFFLINE with reason FAULT, and a
running job ends FAILED with reason SETTER_FAULT and the channel OFFLINE, a byte of the code in the holding slot not sent (R162
to R164, R169, R170, R174; that the byte leaves the slot is read from R170 in log 32, that SETTER_STATE of IDLE is queued before
the job that waits starts in the same event is the model's own reading, log 37, and that the frame's own command names the byte
is its own choice, log 14). -/
def Obligations.FlowBytesMoveTheChannel : Prop :=
  ∀ (s : Machine.State) (ch : Chan) (l : LineNo), s.boundLine ch = some l → s.lines[l].rx = .assemble →
    s.lines[l].slot = none →
    let c := s.chan ch
    let received : Machine.State :=
      { s with lines := s.lines.set l { s.lines[l] with rx := .hunt, marking := true, idleTimer := false } }
    let number := c.job?.map Job.number
    (c.state = .offline → c.queue = [] →
      Reaches (exec (.ready ch) s)
        ((received.setChan ch { c with state := .idle, reason := none, flow := true, lastStatus := some 0x11 }).offer
          (.setterState ch .idle none none))) ∧
    (∀ j more, c.state = .offline → c.queue = j :: more → c.job? = none →
      RunsTo (exec (.ready ch) s) fun t =>
        JobStarted s t ch j more [] ∧ (t.chan ch).flow = true ∧ (t.chan ch).lastStatus = some 0x11 ∧
        Told t (.setterState ch .idle none none) ∧ SameBaskets s t [] ∧ t.store = s.store ∧ t.fitQueue = s.fitQueue ∧
        (∀ other, other ≠ ch → t.chan other = s.chan other) ∧ SameSettings s t) ∧
    (c.state = .idle ∨ c.state = .running →
      Reaches (exec (.ready ch) s) (received.setChan ch { c with flow := true, lastStatus := some 0x11 })) ∧
    (∀ j r code more, c.state = .paused → c.job? = some j → c.run = some r → r.phase = .due → r.codes = code :: more →
      code ≠ .cancel → s.lines[l].holding = none →
      RunsTo (exec (.ready ch) s) fun t =>
        SendsCode s (received.offer (.setterState ch .running none number)) t ch l code
          { c with state := .running, reason := none, flow := true, lastStatus := some 0x11, stallTimer := none }
          { r with codes := more }) ∧
    (c.state = .idle → c.queue = [] →
      Reaches (exec (.notReady ch) s)
        ((received.setChan ch
          { c with state := .offline, reason := some .notReady, flow := false, lastStatus := some 0x13 }).offer
            (.setterState ch .offline (some .notReady) none))) ∧
    (c.state = .offline ∨ c.state = .paused →
      Reaches (exec (.notReady ch) s) (received.setChan ch { c with flow := false, lastStatus := some 0x13 })) ∧
    (∀ r, c.state = .running → c.run = some r →
      (r.phase ≠ .due →
        Reaches (exec (.notReady ch) s) (received.setChan ch { c with flow := false, lastStatus := some 0x13 })) ∧
      (r.phase = .due →
        Reaches (exec (.notReady ch) s)
          ((received.setChan ch
            { c with
              state := .paused, reason := none, flow := false, lastStatus := some 0x13,
              stallTimer := some c.params.stall }).offer (.setterState ch .paused none number)))) ∧
    (c.state = .idle ∨ c.state = .offline →
      let after := received.setChan ch
        { c with state := .offline, reason := some .fault, flow := false, lastStatus := some 0x15 }
      Reaches (exec (.fault ch) s)
        (if c.state = .offline ∧ c.reason = some .fault then after
          else after.offer (.setterState ch .offline (some .fault) number))) ∧
    ∀ j r, c.job? = some j → c.run = some r → c.state = .running ∨ c.state = .paused →
      RunsTo (exec (.fault ch) s) fun t =>
        JobLost s t ch j r .setterFault ∧ (t.chan ch).state = .offline ∧ (t.chan ch).reason = some .fault ∧
        (t.chan ch).flow = false ∧ (t.chan ch).lastStatus = some 0x15 ∧ t.lines[l].holding = none ∧
        t.lines[l].shift = s.lines[l].shift ∧ SameSettings s t

/-- The running job's own events. At a dwell's expiry, with cancel pending the CANCEL code takes the next code's place, and
where its byte moves to the shift stage at once the job ends ABORTED (log 48: cancel pending stands until then); with the flow
NOT READY the channel is PAUSED with the stall timer started; otherwise the next code of the sequence is placed, here on a
line whose holding slot is empty, or the channel waits for the next line's staging. The sequence is, for each segment, SEGMENT
START for a page job, FONT and SIZE, the codes of each line staged for it, and after the last segment JOB END. A line's codes
are LINE START, each element as a CHAR or SPACE under its font and size, with FONT or SIZE codes only before a change, and LINE
END. At STAGING_DONE one line is done (log 42): it enters the staged line buffer when it fits its segment's depth, or goes on
its way at once when the channel waits for it, and is counted overset when it does not fit. A stall timer that expires ends the
job FAILED with reason SETTER_STALLED and the channel OFFLINE (R165 to R169, R171, R174). -/
def Obligations.RunningJobGoesOn : Prop :=
  (∀ (f z : Nat) (line : LineRecord), ∃ codes,
    (lineCodes f z line).1 = .lineStart line.leading (line.leftQuad + line.indent) :: codes ++ [.lineEnd line.rightQuad] ∧
    setBy f z codes = line.elems.map (fun e => (e.ctx.font, e.ctx.size,
      match e.kind with
      | .glyph c => Code.char c e.width
      | .fixed | .gap => .space e.width)) ∧
    ((∀ e ∈ line.elems, e.ctx.font = f) → ∀ x, .font x ∉ codes) ∧
    ((∀ e ∈ line.elems, e.ctx.size = z) → ∀ x, .size x ∉ codes) ∧
    ∀ before x y after, codes ≠ before ++ .size x :: .font y :: after) ∧
  ∀ (s : Machine.State) (ch : Chan) (j : Job) (r : Run), (s.chan ch).job? = some j → (s.chan ch).run = some r →
    let c := s.chan ch
    (∀ code ticks, r.phase = .dwell code ticks → code ≠ .cancel → code.isJobEnd = false → c.cancelPending = false →
      c.state = .running →
      (c.flow = false →
        Reaches (exec (.dwellExpiry ch) s)
          ((s.setChan ch
            { c with
              state := .paused, reason := none, stallTimer := some c.params.stall,
              run := some { r with phase := .due } }).offer (.setterState ch .paused none (some j.number)))) ∧
      (c.flow = true → r.codes = [] → (∃ k, r.seg = some k ∧ ¬ k < r.fitSeg) → c.staged = none →
        Reaches (exec (.dwellExpiry ch) s) (s.setChan ch { c with run := some { r with phase := .due } })) ∧
      (∀ l, c.flow = true → s.boundLine ch = some l → s.lines[l].holding = none →
        let sends (code : Code) (c' : Channel) (r' : Run) : Prop :=
          RunsTo (exec (.dwellExpiry ch) s) fun t => SendsCode s s t ch l code c' r'
        let opens (k : Nat) : Prop :=
          (∀ seg fmt, j.segments[k]? = some seg → r.formats[k]? = some fmt →
            if j.page then
              sends (.segmentStart seg.column seg.top) c
                { r with seg := some k, line := 0, codes := [.font fmt.font, .size fmt.size] }
            else sends (.font fmt.font) c { r with seg := some k, line := 0, codes := [.size fmt.size] }) ∧
          (j.segments[k]? = none → sends (.jobEnd j.number) c { r with seg := some k, line := 0 })
        (∀ next more, r.codes = next :: more → next ≠ .cancel → sends next c { r with codes := more }) ∧
        (r.codes = [] → r.seg = none → opens 0) ∧
        (∀ k line next more, r.codes = [] → r.seg = some k → c.staged = some line → line.segment = k →
          line.codes = next :: more → next ≠ .cancel →
          sends next { c with staged := none } { r with line := r.line + 1, codes := more, counts := line.counts }) ∧
        (∀ k, r.codes = [] → r.seg = some k →
          (∃ line, c.staged = some line ∧ line.segment ≠ k) ∨ (c.staged = none ∧ k < r.fitSeg) → opens (k + 1)))) ∧
    (∀ code ticks l, r.phase = .dwell code ticks → code ≠ .cancel → c.cancelPending = true → s.boundLine ch = some l →
      s.lines[l].holding = none →
      (s.lines[l].shift.isSome = true → RunsTo (exec (.dwellExpiry ch) s) fun t => SendsCode s s t ch l .cancel c r) ∧
      (s.lines[l].shift = none → c.flow = false ∨ c.queue.tail = [] → RunsTo (exec (.dwellExpiry ch) s) fun t =>
        JobLost s t ch j r .cancelled ∧ t.chan ch = c.freed ∧ t.lines[l].holding = none ∧
        t.lines[l].shift = some { byte := s.lines[l].settings.sent 0x18, settings := s.lines[l].settings })) ∧
    (∀ seg g fmt text line fitter, c.staged = none →
      j.segments[r.fitSeg]? = some seg → r.segs[r.fitSeg]? = some g → r.formats[r.fitSeg]? = some fmt →
      (j.segments.map fun x => s.text x.key.sid)[r.fitSeg]? = some text →
      Copies.advance { format := fmt, widths := r.widths } text r.fitter = some (line, fitter) →
      let extra := if r.fitter.paraStart && !r.fitter.first then fmt.extraLead else 0
      let fits := g.oversetLines = 0 ∧ (seg.depth = 0 ∨ g.emittedDepth + extra + line.leading ≤ seg.depth)
      let codes := (lineCodes r.lastFont r.lastSize line).1
      let counts : LineCounts := { loose := line.loose.toNat, overlong := line.overlong.toNat, missing := line.missing }
      let counted (t : Machine.State) (r' : Run) : Prop :=
        (t.chan ch).run = some r' ∧ r'.segs[r.fitSeg]? = some
          (if fits then { g with emittedDepth := g.emittedDepth + extra + line.leading, totals := fitter.totals }
            else
              { g with
                oversetLines := g.oversetLines + 1, oversetDepth := g.oversetDepth + extra + line.leading,
                totals := fitter.totals }) ∧
        t.dir = s.dir ∧ t.store = s.store ∧ t.baskets = s.baskets ∧ t.fitQueue = s.fitQueue ∧ SameLines s t ∧
        SameSettings s t
      ((∃ code ticks, r.phase = .dwell code ticks) ∨ (r.phase = .due ∧ c.state = .paused) →
        RunsTo (exec (.stagingDone ch) s) fun t =>
          (fits → (t.chan ch).staged = some { segment := r.fitSeg, codes := codes, counts := counts }) ∧
          (¬fits → (t.chan ch).staged = none) ∧ ∃ r', counted t r' ∧ r'.phase = r.phase ∧ r'.codes = r.codes) ∧
      (∀ l, r.phase = .due → c.state = .running → r.codes = [] → r.seg = some r.fitSeg → fits →
        s.boundLine ch = some l → s.lines[l].holding = none → RunsTo (exec (.stagingDone ch) s) fun t =>
          ∃ r' rest, counted t r' ∧ r'.phase = .placing (.lineStart line.leading (line.leftQuad + line.indent)) rest ∧
            CodePlaced s t l (.lineStart line.leading (line.leftQuad + line.indent)) rest ∧ r'.codes = codes.tail ∧
            r'.line = r.line + 1 ∧ r'.counts = counts ∧ (t.chan ch).staged = none)) ∧
    (c.state = .paused → c.stallTimer.isSome = true →
      RunsTo (exec (.stallTimerExpiry ch) s) fun t =>
        JobLost s t ch j r .setterStalled ∧ (t.chan ch).state = .offline ∧ (t.chan ch).reason = some .stalled ∧
        SameLines s t ∧ SameSettings s t)

/-- FIT_COMPLETE. A spoiled fit's totals are discarded and its entry waits at the tail with its flags clear. An unspoiled one
writes the story's depth with the stale flag clear, queues FIT_DONE, and marks row 0 on the story's holder and reviewers, whatever
they show, and the row that lists it; its entry leaves the queue, or waits again at the tail when repeat was asked. Either way the
fitter takes the new head with fresh copies (R151, R155, R156, R157; that the walk over the text is made as the fit completes is
the model's own choice, log 42). -/
def Obligations.FitCompleteWritesOrRepeats : Prop :=
  ∀ (s : Machine.State) (k : Key) (r : FitRun) (more : List FitEntry) (st : Story),
    s.fitQueue = { key := k, active := some r } :: more → s.story? k.sid = some st →
    (∀ e ∈ more, e.active = none ∧ (s.story? e.key.sid).isSome = true) →
    let taken (q : List FitEntry) : Prop := ∀ e rest, q = e :: rest → ∃ st', s.story? e.key.sid = some st' ∧ e.active = some
      { spoiled := false, outdated := false, again := false, formatNo := st'.format, format := s.formats[st'.format],
        widths := s.widths, fitter := Fitter.start }
    let keys (q : List FitEntry) := q.map FitEntry.key
    let cells := s.text k.sid
    let totals := (Copies.walk { format := r.format, widths := r.widths } cells (cells.length + 1) r.fitter).totals
    (r.spoiled = true → RunsTo (exec .fitComplete s) fun t =>
      keys t.fitQueue = keys more ++ [k] ∧ taken t.fitQueue ∧ (∀ e ∈ t.fitQueue.tail, e.active = none) ∧
      t.core = ({ s with fitQueue := t.fitQueue }).core ∧ t.host = s.portOut) ∧
    (r.spoiled = false → RunsTo (exec .fitComplete s) fun t =>
      HasStory s t k.sid
        { st with
          depth := some { halfPoints := totals.depth, lines := totals.lines, stale := false, loose := totals.loose,
                          overlong := totals.overlong, missing := totals.missing } } ∧
      Told t (.fitDone k r.formatNo totals) ∧ ShownMarked s t k.sid ∧ ListedMarked s t k.sid ∧
      keys t.fitQueue = (if r.again then keys more ++ [k] else keys more) ∧ taken t.fitQueue ∧
      (∀ e ∈ t.fitQueue.tail, e.active = none) ∧ SameRecords s t k.sid ∧ SameBaskets s t [] ∧ t.store = s.store ∧ SameElsewhere s t)

/-! ## Line fitting -/

/-- A JUSTIFY line with gaps that is no last line taking optimum spaces (R141, R142): its slack is what the measure leaves
beside the indent, the solid width and the gaps' minima; gap j receives its minimum, the slack divided by the gaps, and one
unit more for the leftmost of the remainder. It has no quads, and with the indent its widths make up the measure exactly. When
no gap passes its maximum that is all: nothing is letterspaced, and the line is not loose. When gaps pass it by an excess, and
every element has one size, the letterspace limit is not 0, the line has letter gaps and the excess is within the limit for
each of them, the line is letterspaced: each gap is cut to its maximum, and the excess goes to the letter gaps evenly, one unit
more to each of the leftmost of its remainder. With any of the four wanting, the gaps stand and the line is loose. The premise
that the line is no lone overlong character is R140's, and that the minima leave room is how a JUSTIFY line is built (R137). -/
def Obligations.JustifiedLinesFillTheMeasure : Prop :=
  ∀ (c : Copies) (b : Built),
    let gaps := gapsOf b.elems
    let sum (space : Nat) := (gaps.map fun e => space * e.ctx.size).sum
    let slack := c.measure - (b.indent + solidWidth b.elems + sum c.format.minSpace)
    let width (j : Nat) (e : Elem) : Nat :=
      c.format.minSpace * e.ctx.size + slack / gaps.length + (if j < slack % gaps.length then 1 else 0)
    let most (e : Elem) : Nat := c.format.maxSpace * e.ctx.size
    let excess := ((List.range gaps.length).map fun j => gaps[j]?.elim 0 fun e => width j e - most e).sum
    let letterGap (i : Nat) : Bool := b.elems[i]?.any Elem.isGlyph && b.elems[i + 1]?.any Elem.isGlyph
    let letters := (List.range b.elems.length).countP letterGap
    let spaced : Prop := ∃ size, (∀ e ∈ b.elems, e.ctx.size = size) ∧ 0 < c.format.letterspace ∧ 0 < letters ∧
      excess ≤ letters * c.format.letterspace * size
    let line := c.setLine .justify b
    b.lone = false → gaps ≠ [] →
    ¬(b.ending.isLast = true ∧ b.indent + solidWidth b.elems + sum c.format.optSpace ≤ c.measure) →
    b.indent + solidWidth b.elems + sum c.format.minSpace ≤ c.measure →
    line.left = 0 ∧ line.right = 0 ∧ b.indent + widthOf line.elems = c.measure ∧
    ((∀ j e, gaps[j]? = some e → width j e ≤ most e) → line.loose = false ∧ GapsSet b.elems line.elems width) ∧
    ((∃ j e, gaps[j]? = some e ∧ most e < width j e) →
      (¬spaced → line.loose = true ∧ GapsSet b.elems line.elems width) ∧
      (spaced → line.loose = false ∧ line.elems.length = b.elems.length ∧
        ∀ (i : Nat) (e : Elem), b.elems[i]? = some e →
          line.elems[i]? = some
            { e with
              width :=
                if e.isGap then Nat.min (width (gapsOf (b.elems.take i)).length e) (most e)
                else if letterGap i then
                  e.width + excess / letters + (if (List.range i).countP letterGap < excess % letters then 1 else 0)
                else e.width }))

/-- How a line takes its words, is set, and counts. BUILDING (R136 to R140): the words of a text that all fit, and a line end
or the text's end behind them, make a line that ends there. Where the next word does not fit, the line ends WIDTH, or CAP where
the 200 characters alone stand against it. It then takes the longest prefix up to a break position that fits with its hyphen,
the rest of the word beginning the next line; with none it ends before the word; and with no word on it yet it takes the
longest run of the word that ends with a character and fits, overlong. Where not even that fits, the line is built without its
indent, and a first character wider than the measure is set alone, overlong. SETTING: a JUSTIFY line with no gap takes a right
quad, and is loose when that is not 0 and it is not the last of its paragraph (R143); a last line whose optimum spaces fit
takes them and a right quad (R144); LEFT, RIGHT and CENTER lines take optimum spaces with what is left over in their quads
(R145); a lone overlong character takes no quad. COUNTING: from its place in the text the fitter finds no line where only a gap
is left; an empty line at a PARA or LINE, whose leading is the one in force there and whose right quad is the measure less the
indent, below 0 where the indent is the greater, so that its escapement is the measure (R136); or else a line built from the
first word with the mode in force there, and on the first line of a paragraph the indent, whose leading is the greatest among
its elements (R134, R147); and the totals rise by the leading, with the extra lead before every paragraph but the story's first
line, by one line, and by the loose, overlong and missing counts (R148; that a word broken at a DHYPH keeps a break position
with no character before it in the rest is the model's own reading, log 34). -/
def Obligations.LinesTakeTheWordsThatFit : Prop :=
  (∀ (c : Copies) (m : Mode) (indent : Nat) (led : Bool) (words : List GapWord) (gap tail : List TextItem), ProperWords words →
    (∀ i ∈ gap, i.cell = .space ∨ i.cell = .dhyph) → c.Holds indent (c.lineOf m words) →
    let text := wordsText words ++ gap ++ tail
    let line := c.build m indent led (text.length + 1) [] text
    let ends (elems : List Elem) (ending : LineEnd) (overlong : Bool) (rest : List TextItem) : Prop :=
      line = some { elems := elems, indent := indent, ending := ending, overlong := overlong, lone := false, rest := rest }
    (tail = [] → ends (c.lineOf m words) .fin false []) ∧
    (∀ x rest, tail = x :: rest → x.cell = .para → ends (c.lineOf m words) .para false rest) ∧
    (∀ x rest, tail = x :: rest → x.cell = .line → ends (c.lineOf m words) .line false rest) ∧
    ∀ w rest, tail = w ++ rest → ProperWords (words ++ [{ gap := gap, word := w }]) →
      (∀ x ∈ rest.head?, x.cell = .space ∨ x.cell = .para ∨ x.cell = .line) →
      let whole := c.lineOf m (words ++ [{ gap := gap, word := w }])
      ¬c.Holds indent whole →
      let ending : LineEnd := if indent + (whole.map Elem.width).sum ≤ c.format.measure * 80 then .cap else .width
      let before := if words = [] then [] else c.lineOf m words ++ c.gapBefore m { gap := gap, word := w }
      let prefixOf (i : Nat) (d : TextItem) : List Elem := before ++ c.elems (w.take i) ++ [c.glyph 0x2D d.ctx]
      let breaks (i : Nat) : Prop :=
        BreakAt (led && words.isEmpty) w i ∧ ∃ d, w[i]? = some d ∧ c.Holds indent (prefixOf i d)
      let runs (n : Nat) : Prop :=
        (∃ x, (w.take n).getLast? = some x ∧ x.isChar = true) ∧ n ≤ w.length ∧ c.Holds indent (c.elems (w.take n))
      (∀ i d, breaks i → (∀ k, i < k → ¬breaks k) → w[i]? = some d →
        ends (prefixOf i d) ending false (w.drop (i + 1) ++ rest)) ∧
      ((∀ i, ¬breaks i) →
        (words ≠ [] → ends (c.lineOf m words) ending false (w ++ rest)) ∧
        (words = [] →
          (∀ n, runs n → (∀ k, n < k → ¬runs k) → ends (c.elems (w.take n)) ending true (w.drop n ++ rest)) ∧
          ((∀ n, ¬runs n) → line = none)))) ∧
  (∀ (c : Copies) (o : OpenLine) (led : Bool) (t : List TextItem), o.elems = [] →
    let placed (indent : Nat) := c.build o.mode indent led (t.length + 1) [] t
    (∀ b, placed o.indent = some b → c.buildLine o led t = b) ∧
    (∀ b, placed o.indent = none → placed 0 = some b → c.buildLine o led t = b) ∧
    ∀ x rest, t = x :: rest → x.isChar = true → placed o.indent = none → placed 0 = none →
      c.buildLine o led t =
        { elems := c.elems [x], indent := 0, ending := .width, overlong := true, lone := true, rest := rest }) ∧
  (∀ (c : Copies) (m : Mode) (b : Built),
    let optimum : Nat → Elem → Nat := fun _ e => c.format.optSpace * e.ctx.size
    let natural := b.indent + solidWidth b.elems + ((gapsOf b.elems).map fun e => c.format.optSpace * e.ctx.size).sum
    let left := c.measure - natural
    let line := c.setLine m b
    let quads (l r : Nat) : Prop := line.left = l ∧ line.right = r
    (b.lone = true → quads 0 0 ∧ line.loose = false ∧ GapsSet b.elems line.elems optimum) ∧
    (b.lone = false →
      (m ≠ .justify → line.loose = false ∧ GapsSet b.elems line.elems optimum ∧
        (natural ≤ c.measure → line.left + b.indent + widthOf line.elems + line.right = c.measure)) ∧
      (m = .left → quads 0 left) ∧ (m = .right → quads left 0) ∧ (m = .center → quads (left / 2) (left - left / 2)) ∧
      (m = .justify → gapsOf b.elems = [] →
        quads 0 left ∧ line.elems = b.elems ∧ (line.loose = true ↔ 0 < left ∧ b.ending.isLast = false)) ∧
      (m = .justify → gapsOf b.elems ≠ [] → b.ending.isLast = true → natural ≤ c.measure →
        quads 0 left ∧ line.loose = false ∧ GapsSet b.elems line.elems optimum))) ∧
  ∀ (c : Copies) (cells : List Cell) (x : Fitter), x.line = none →
    let text := fitText c.format cells
    let ahead := text.drop x.place
    let extra := if x.paraStart = true ∧ x.first = false then c.format.extraLead else 0
    let counts (line : LineRecord) (rest : List TextItem) (para : Bool) : Prop :=
      c.advance cells x = some (line,
        { place := text.length - rest.length, line := none, paraStart := para, first := false,
          totals :=
            { depth := x.totals.depth + extra + line.leading, lines := x.totals.lines + 1,
              loose := x.totals.loose + (if line.loose then 1 else 0),
              overlong := x.totals.overlong + (if line.overlong then 1 else 0),
              missing := x.totals.missing + line.missing } })
    ((∀ i ∈ ahead, i.cell = .space ∨ i.cell = .dhyph) → c.advance cells x = none) ∧
    ∀ gap i rest, ahead = gap ++ i :: rest → (∀ k ∈ gap, k.cell = .space ∨ k.cell = .dhyph) → i.cell ≠ .space →
      i.cell ≠ .dhyph →
      let indent := if x.paraStart then c.format.indent * 40 * i.ctx.size else 0
      (i.cell = .para ∨ i.cell = .line →
        ∃ line, counts line rest (decide (i.cell = .para)) ∧ line.elems = [] ∧ line.leading = i.ctx.lead ∧
          line.indent = indent ∧ line.leftQuad = 0 ∧ line.rightQuad = (c.measure : Int) - indent ∧
          line.escapement = c.measure ∧ line.loose = false ∧ line.overlong = false ∧ line.missing = 0 ∧ line.empty = true ∧ line.paraFirst = x.paraStart) ∧
      (i.cell ≠ .para → i.cell ≠ .line →
        ∃ line led,
          let b := c.buildLine { mode := i.ctx.mode, indent := indent, elems := [] } led (i :: rest)
          let set := c.setLine i.ctx.mode b
          counts line b.rest (decide (b.ending = .para)) ∧ line.elems = set.elems ∧ line.indent = b.indent ∧
          line.leftQuad = set.left ∧ line.rightQuad = set.right ∧ line.loose = set.loose ∧ line.overlong = b.overlong ∧
          line.missing = (set.elems.filter Elem.missing).length ∧ line.empty = false ∧ line.paraFirst = x.paraStart ∧
          (∀ e ∈ set.elems, e.ctx.lead ≤ line.leading) ∧ (set.elems ≠ [] → ∃ e ∈ set.elems, e.ctx.lead = line.leading) ∧
          (led = true ↔ (∀ k ∈ gap, k.cell ≠ .space) ∧ ∃ front w, text.take x.place = front ++ w ∧
            (∀ k ∈ w, k.cell ≠ .space ∧ k.cell ≠ .para ∧ k.cell ≠ .line) ∧ ∃ k ∈ w, k.isChar = true))

/-! ## The screen on its way out -/

/-- What a session sends on finding its holding slot empty. Of a row on its way out the next byte; when the last has been
placed and has left, the row leaves the dirty set, or stays in it when its changed flag is set, and the set becoming empty sets
cursor pending. Of a mode or cursor-address code the next byte; when the last has left, its pending mark clears, unless it was
asked for again meanwhile (the reading of log 54). At once after either, and when no code is in progress: its pending mode code
before all; then the bell; in BLANK nothing more; then the lowest dirty row, copied as its image stands, or in TEST as solid
blocks; then the cursor. A row with no attributes is sent as its cursor address, its codes up to the last that is not blank,
and the erase code (R76 to R78, R80, R193). -/
def Obligations.SessionsSendInOrder : Prop :=
  (∀ (ss : Session) (x : Flight), ss.flight = some x → ss.codeOut = none →
    (∀ b, (rowBytes x.row x.copy)[x.placed]? = some b →
      ss.nextByte = (some b, { ss with flight := some { x with placed := x.placed + 1 } })) ∧
    (x.placed = (rowBytes x.row x.copy).length →
      (x.changed = true → ss.nextByte = Session.nextByte { ss with flight := none }) ∧
      (x.changed = false →
        let sent : Session := { ss with flight := none, dirty := ss.dirty.set x.row false }
        ((∃ r : Fin 24, r ≠ x.row ∧ ss.dirty[r] = true) → ss.nextByte = sent.nextByte) ∧
        ((∀ r : Fin 24, r ≠ x.row → ss.dirty[r] = false) →
          ss.nextByte = Session.nextByte { sent with cursorPending := true })))) ∧
  (∀ (ss : Session) (c : CodeOut), ss.flight = none → ss.codeOut = some c →
    (∀ b more, c.rest = b :: more → ss.nextByte = (some b, { ss with codeOut := some { c with rest := more } })) ∧
    (c.rest = [] →
      (c.kind = .mode →
        ss.nextByte = Session.nextByte { ss with codeOut := none, modePending := if c.again then ss.modePending else none }) ∧
      (c.kind = .cursor → ss.nextByte = Session.nextByte { ss with codeOut := none, cursorPending := c.again }))) ∧
  (∀ ss : Session, ss.flight = none → ss.codeOut = none →
    (∀ m, ss.modePending = some m → ss.nextByte.1 = some 0x1B ∧
      ss.nextByte.2.codeOut = some { kind := .mode, rest := [m.byte], again := false }) ∧
    (ss.modePending = none → ss.bell = true → ss.nextByte = (some 0x07, { ss with bell := false })) ∧
    (ss.modePending = none → ss.bell = false → ss.mode = .blank → ss.nextByte = (none, ss)) ∧
    (∀ r : Fin 24, ss.modePending = none → ss.bell = false → ss.mode ≠ .blank → ss.dirty[r] = true →
      (∀ x : Fin 24, x < r → ss.dirty[x] = false) →
      ss.nextByte =
        (some 0x1C,
          { ss with
            flight := some
              { row := r, copy := if ss.mode = .test then .solid else .cells ss.image[r], placed := 1, changed := false } })) ∧
    (ss.modePending = none → ss.bell = false → ss.mode ≠ .blank → (∀ x : Fin 24, ss.dirty[x] = false) →
      (ss.cursorPending = false → ss.nextByte = (none, ss)) ∧
      (ss.cursorPending = true → ss.nextByte.1 = some 0x1C))) ∧
  ∀ (row : Fin 24) (text : List Byte) (blanks : Nat), (∀ b ∈ text.getLast?, b ≠ 0x20) →
    rowBytes row (.cells (plain (text ++ List.replicate blanks 0x20))) =
      [0x1C, BitVec.ofNat 8 (0x20 + row.val), 0x20] ++ text ++ [0x1D]
end

