-- ==== Sys2Proof/Laws/State.lean ====
section
/-! SUPPORT. One lemma for each field that each named update leaves alone, and what the update gives the field it writes. -/

namespace Sys2Proof.Machine

/-! ### setLine -/

@[simp] theorem State.setLine_store (s : State) (l : LineNo) (r : LineRec) : (s.setLine l r).store = s.store := rfl
@[simp] theorem State.setLine_dir (s : State) (l : LineNo) (r : LineRec) : (s.setLine l r).dir = s.dir := rfl
@[simp] theorem State.setLine_baskets (s : State) (l : LineNo) (r : LineRec) : (s.setLine l r).baskets = s.baskets := rfl
@[simp] theorem State.setLine_profiles (s : State) (l : LineNo) (r : LineRec) : (s.setLine l r).profiles = s.profiles := rfl
@[simp] theorem State.setLine_term (s : State) (l : LineNo) (r : LineRec) : (s.setLine l r).term = s.term := rfl
@[simp] theorem State.setLine_formats (s : State) (l : LineNo) (r : LineRec) : (s.setLine l r).formats = s.formats := rfl
@[simp] theorem State.setLine_widths (s : State) (l : LineNo) (r : LineRec) : (s.setLine l r).widths = s.widths := rfl
@[simp] theorem State.setLine_fitQueue (s : State) (l : LineNo) (r : LineRec) : (s.setLine l r).fitQueue = s.fitQueue := rfl
@[simp] theorem State.setLine_chanA (s : State) (l : LineNo) (r : LineRec) : (s.setLine l r).chanA = s.chanA := rfl
@[simp] theorem State.setLine_chanB (s : State) (l : LineNo) (r : LineRec) : (s.setLine l r).chanB = s.chanB := rfl
@[simp] theorem State.setLine_host (s : State) (l : LineNo) (r : LineRec) : (s.setLine l r).host = s.host := rfl
@[simp] theorem State.setLine_loader (s : State) (l : LineNo) (r : LineRec) : (s.setLine l r).loader = s.loader := rfl
@[simp] theorem State.setLine_eeprom (s : State) (l : LineNo) (r : LineRec) : (s.setLine l r).eeprom = s.eeprom := rfl
@[simp] theorem State.setLine_pending (s : State) (l : LineNo) (r : LineRec) : (s.setLine l r).pending = s.pending := rfl
@[simp] theorem State.setLine_freeCount (s : State) (l : LineNo) (r : LineRec) : (s.setLine l r).freeCount = s.freeCount := rfl

/-! ### modLine -/

@[simp] theorem State.modLine_store (s : State) (l : LineNo) (f : LineRec → LineRec) : (s.modLine l f).store = s.store := rfl
@[simp] theorem State.modLine_dir (s : State) (l : LineNo) (f : LineRec → LineRec) : (s.modLine l f).dir = s.dir := rfl
@[simp] theorem State.modLine_baskets (s : State) (l : LineNo) (f : LineRec → LineRec) : (s.modLine l f).baskets = s.baskets := rfl
@[simp] theorem State.modLine_profiles (s : State) (l : LineNo) (f : LineRec → LineRec) : (s.modLine l f).profiles = s.profiles := rfl
@[simp] theorem State.modLine_term (s : State) (l : LineNo) (f : LineRec → LineRec) : (s.modLine l f).term = s.term := rfl
@[simp] theorem State.modLine_formats (s : State) (l : LineNo) (f : LineRec → LineRec) : (s.modLine l f).formats = s.formats := rfl
@[simp] theorem State.modLine_widths (s : State) (l : LineNo) (f : LineRec → LineRec) : (s.modLine l f).widths = s.widths := rfl
@[simp] theorem State.modLine_fitQueue (s : State) (l : LineNo) (f : LineRec → LineRec) : (s.modLine l f).fitQueue = s.fitQueue := rfl
@[simp] theorem State.modLine_chanA (s : State) (l : LineNo) (f : LineRec → LineRec) : (s.modLine l f).chanA = s.chanA := rfl
@[simp] theorem State.modLine_chanB (s : State) (l : LineNo) (f : LineRec → LineRec) : (s.modLine l f).chanB = s.chanB := rfl
@[simp] theorem State.modLine_host (s : State) (l : LineNo) (f : LineRec → LineRec) : (s.modLine l f).host = s.host := rfl
@[simp] theorem State.modLine_loader (s : State) (l : LineNo) (f : LineRec → LineRec) : (s.modLine l f).loader = s.loader := rfl
@[simp] theorem State.modLine_eeprom (s : State) (l : LineNo) (f : LineRec → LineRec) : (s.modLine l f).eeprom = s.eeprom := rfl
@[simp] theorem State.modLine_pending (s : State) (l : LineNo) (f : LineRec → LineRec) : (s.modLine l f).pending = s.pending := rfl
@[simp] theorem State.modLine_freeCount (s : State) (l : LineNo) (f : LineRec → LineRec) : (s.modLine l f).freeCount = s.freeCount := rfl

/-! ### setSession -/

@[simp] theorem State.setSession_store (s : State) (l : LineNo) (ss : Session) : (s.setSession l ss).store = s.store := rfl
@[simp] theorem State.setSession_dir (s : State) (l : LineNo) (ss : Session) : (s.setSession l ss).dir = s.dir := rfl
@[simp] theorem State.setSession_baskets (s : State) (l : LineNo) (ss : Session) : (s.setSession l ss).baskets = s.baskets := rfl
@[simp] theorem State.setSession_profiles (s : State) (l : LineNo) (ss : Session) : (s.setSession l ss).profiles = s.profiles := rfl
@[simp] theorem State.setSession_term (s : State) (l : LineNo) (ss : Session) : (s.setSession l ss).term = s.term := rfl
@[simp] theorem State.setSession_formats (s : State) (l : LineNo) (ss : Session) : (s.setSession l ss).formats = s.formats := rfl
@[simp] theorem State.setSession_widths (s : State) (l : LineNo) (ss : Session) : (s.setSession l ss).widths = s.widths := rfl
@[simp] theorem State.setSession_fitQueue (s : State) (l : LineNo) (ss : Session) : (s.setSession l ss).fitQueue = s.fitQueue := rfl
@[simp] theorem State.setSession_chanA (s : State) (l : LineNo) (ss : Session) : (s.setSession l ss).chanA = s.chanA := rfl
@[simp] theorem State.setSession_chanB (s : State) (l : LineNo) (ss : Session) : (s.setSession l ss).chanB = s.chanB := rfl
@[simp] theorem State.setSession_host (s : State) (l : LineNo) (ss : Session) : (s.setSession l ss).host = s.host := rfl
@[simp] theorem State.setSession_loader (s : State) (l : LineNo) (ss : Session) : (s.setSession l ss).loader = s.loader := rfl
@[simp] theorem State.setSession_eeprom (s : State) (l : LineNo) (ss : Session) : (s.setSession l ss).eeprom = s.eeprom := rfl
@[simp] theorem State.setSession_pending (s : State) (l : LineNo) (ss : Session) : (s.setSession l ss).pending = s.pending := rfl
@[simp] theorem State.setSession_freeCount (s : State) (l : LineNo) (ss : Session) : (s.setSession l ss).freeCount = s.freeCount := rfl

/-! ### setIntake -/

@[simp] theorem State.setIntake_store (s : State) (l : LineNo) (ik : Intake) : (s.setIntake l ik).store = s.store := rfl
@[simp] theorem State.setIntake_dir (s : State) (l : LineNo) (ik : Intake) : (s.setIntake l ik).dir = s.dir := rfl
@[simp] theorem State.setIntake_baskets (s : State) (l : LineNo) (ik : Intake) : (s.setIntake l ik).baskets = s.baskets := rfl
@[simp] theorem State.setIntake_profiles (s : State) (l : LineNo) (ik : Intake) : (s.setIntake l ik).profiles = s.profiles := rfl
@[simp] theorem State.setIntake_term (s : State) (l : LineNo) (ik : Intake) : (s.setIntake l ik).term = s.term := rfl
@[simp] theorem State.setIntake_formats (s : State) (l : LineNo) (ik : Intake) : (s.setIntake l ik).formats = s.formats := rfl
@[simp] theorem State.setIntake_widths (s : State) (l : LineNo) (ik : Intake) : (s.setIntake l ik).widths = s.widths := rfl
@[simp] theorem State.setIntake_fitQueue (s : State) (l : LineNo) (ik : Intake) : (s.setIntake l ik).fitQueue = s.fitQueue := rfl
@[simp] theorem State.setIntake_chanA (s : State) (l : LineNo) (ik : Intake) : (s.setIntake l ik).chanA = s.chanA := rfl
@[simp] theorem State.setIntake_chanB (s : State) (l : LineNo) (ik : Intake) : (s.setIntake l ik).chanB = s.chanB := rfl
@[simp] theorem State.setIntake_host (s : State) (l : LineNo) (ik : Intake) : (s.setIntake l ik).host = s.host := rfl
@[simp] theorem State.setIntake_loader (s : State) (l : LineNo) (ik : Intake) : (s.setIntake l ik).loader = s.loader := rfl
@[simp] theorem State.setIntake_eeprom (s : State) (l : LineNo) (ik : Intake) : (s.setIntake l ik).eeprom = s.eeprom := rfl
@[simp] theorem State.setIntake_pending (s : State) (l : LineNo) (ik : Intake) : (s.setIntake l ik).pending = s.pending := rfl
@[simp] theorem State.setIntake_freeCount (s : State) (l : LineNo) (ik : Intake) : (s.setIntake l ik).freeCount = s.freeCount := rfl

/-! ### modSession -/

@[simp] theorem State.modSession_store (s : State) (l : LineNo) (f : Session → Session) : (s.modSession l f).store = s.store := rfl
@[simp] theorem State.modSession_dir (s : State) (l : LineNo) (f : Session → Session) : (s.modSession l f).dir = s.dir := rfl
@[simp] theorem State.modSession_baskets (s : State) (l : LineNo) (f : Session → Session) : (s.modSession l f).baskets = s.baskets := rfl
@[simp] theorem State.modSession_profiles (s : State) (l : LineNo) (f : Session → Session) : (s.modSession l f).profiles = s.profiles := rfl
@[simp] theorem State.modSession_term (s : State) (l : LineNo) (f : Session → Session) : (s.modSession l f).term = s.term := rfl
@[simp] theorem State.modSession_formats (s : State) (l : LineNo) (f : Session → Session) : (s.modSession l f).formats = s.formats := rfl
@[simp] theorem State.modSession_widths (s : State) (l : LineNo) (f : Session → Session) : (s.modSession l f).widths = s.widths := rfl
@[simp] theorem State.modSession_fitQueue (s : State) (l : LineNo) (f : Session → Session) : (s.modSession l f).fitQueue = s.fitQueue := rfl
@[simp] theorem State.modSession_chanA (s : State) (l : LineNo) (f : Session → Session) : (s.modSession l f).chanA = s.chanA := rfl
@[simp] theorem State.modSession_chanB (s : State) (l : LineNo) (f : Session → Session) : (s.modSession l f).chanB = s.chanB := rfl
@[simp] theorem State.modSession_host (s : State) (l : LineNo) (f : Session → Session) : (s.modSession l f).host = s.host := rfl
@[simp] theorem State.modSession_loader (s : State) (l : LineNo) (f : Session → Session) : (s.modSession l f).loader = s.loader := rfl
@[simp] theorem State.modSession_eeprom (s : State) (l : LineNo) (f : Session → Session) : (s.modSession l f).eeprom = s.eeprom := rfl
@[simp] theorem State.modSession_pending (s : State) (l : LineNo) (f : Session → Session) : (s.modSession l f).pending = s.pending := rfl
@[simp] theorem State.modSession_freeCount (s : State) (l : LineNo) (f : Session → Session) : (s.modSession l f).freeCount = s.freeCount := rfl

/-! ### modSessions -/

@[simp] theorem State.modSessions_store (s : State) (f : LineNo → Session → Session) : (s.modSessions f).store = s.store := by unfold State.modSessions; rfl
@[simp] theorem State.modSessions_dir (s : State) (f : LineNo → Session → Session) : (s.modSessions f).dir = s.dir := by unfold State.modSessions; rfl
@[simp] theorem State.modSessions_baskets (s : State) (f : LineNo → Session → Session) : (s.modSessions f).baskets = s.baskets := by unfold State.modSessions; rfl
@[simp] theorem State.modSessions_profiles (s : State) (f : LineNo → Session → Session) : (s.modSessions f).profiles = s.profiles := by unfold State.modSessions; rfl
@[simp] theorem State.modSessions_term (s : State) (f : LineNo → Session → Session) : (s.modSessions f).term = s.term := by unfold State.modSessions; rfl
@[simp] theorem State.modSessions_formats (s : State) (f : LineNo → Session → Session) : (s.modSessions f).formats = s.formats := by unfold State.modSessions; rfl
@[simp] theorem State.modSessions_widths (s : State) (f : LineNo → Session → Session) : (s.modSessions f).widths = s.widths := by unfold State.modSessions; rfl
@[simp] theorem State.modSessions_fitQueue (s : State) (f : LineNo → Session → Session) : (s.modSessions f).fitQueue = s.fitQueue := by unfold State.modSessions; rfl
@[simp] theorem State.modSessions_chanA (s : State) (f : LineNo → Session → Session) : (s.modSessions f).chanA = s.chanA := by unfold State.modSessions; rfl
@[simp] theorem State.modSessions_chanB (s : State) (f : LineNo → Session → Session) : (s.modSessions f).chanB = s.chanB := by unfold State.modSessions; rfl
@[simp] theorem State.modSessions_host (s : State) (f : LineNo → Session → Session) : (s.modSessions f).host = s.host := by unfold State.modSessions; rfl
@[simp] theorem State.modSessions_loader (s : State) (f : LineNo → Session → Session) : (s.modSessions f).loader = s.loader := by unfold State.modSessions; rfl
@[simp] theorem State.modSessions_eeprom (s : State) (f : LineNo → Session → Session) : (s.modSessions f).eeprom = s.eeprom := by unfold State.modSessions; rfl
@[simp] theorem State.modSessions_pending (s : State) (f : LineNo → Session → Session) : (s.modSessions f).pending = s.pending := by unfold State.modSessions; rfl
@[simp] theorem State.modSessions_freeCount (s : State) (f : LineNo → Session → Session) : (s.modSessions f).freeCount = s.freeCount := by unfold State.modSessions; rfl

/-! ### setRec -/

@[simp] theorem State.setRec_store (s : State) (sid : Sid) (r : Rec) : (s.setRec sid r).store = s.store := rfl
@[simp] theorem State.setRec_baskets (s : State) (sid : Sid) (r : Rec) : (s.setRec sid r).baskets = s.baskets := rfl
@[simp] theorem State.setRec_profiles (s : State) (sid : Sid) (r : Rec) : (s.setRec sid r).profiles = s.profiles := rfl
@[simp] theorem State.setRec_lines (s : State) (sid : Sid) (r : Rec) : (s.setRec sid r).lines = s.lines := rfl
@[simp] theorem State.setRec_term (s : State) (sid : Sid) (r : Rec) : (s.setRec sid r).term = s.term := rfl
@[simp] theorem State.setRec_formats (s : State) (sid : Sid) (r : Rec) : (s.setRec sid r).formats = s.formats := rfl
@[simp] theorem State.setRec_widths (s : State) (sid : Sid) (r : Rec) : (s.setRec sid r).widths = s.widths := rfl
@[simp] theorem State.setRec_fitQueue (s : State) (sid : Sid) (r : Rec) : (s.setRec sid r).fitQueue = s.fitQueue := rfl
@[simp] theorem State.setRec_chanA (s : State) (sid : Sid) (r : Rec) : (s.setRec sid r).chanA = s.chanA := rfl
@[simp] theorem State.setRec_chanB (s : State) (sid : Sid) (r : Rec) : (s.setRec sid r).chanB = s.chanB := rfl
@[simp] theorem State.setRec_host (s : State) (sid : Sid) (r : Rec) : (s.setRec sid r).host = s.host := rfl
@[simp] theorem State.setRec_loader (s : State) (sid : Sid) (r : Rec) : (s.setRec sid r).loader = s.loader := rfl
@[simp] theorem State.setRec_eeprom (s : State) (sid : Sid) (r : Rec) : (s.setRec sid r).eeprom = s.eeprom := rfl
@[simp] theorem State.setRec_pending (s : State) (sid : Sid) (r : Rec) : (s.setRec sid r).pending = s.pending := rfl
@[simp] theorem State.setRec_freeCount (s : State) (sid : Sid) (r : Rec) : (s.setRec sid r).freeCount = s.freeCount := rfl

/-! ### modStory -/

@[simp] theorem State.modStory_store (s : State) (sid : Sid) (f : Story → Story) : (s.modStory sid f).store = s.store := rfl
@[simp] theorem State.modStory_baskets (s : State) (sid : Sid) (f : Story → Story) : (s.modStory sid f).baskets = s.baskets := rfl
@[simp] theorem State.modStory_profiles (s : State) (sid : Sid) (f : Story → Story) : (s.modStory sid f).profiles = s.profiles := rfl
@[simp] theorem State.modStory_lines (s : State) (sid : Sid) (f : Story → Story) : (s.modStory sid f).lines = s.lines := rfl
@[simp] theorem State.modStory_term (s : State) (sid : Sid) (f : Story → Story) : (s.modStory sid f).term = s.term := rfl
@[simp] theorem State.modStory_formats (s : State) (sid : Sid) (f : Story → Story) : (s.modStory sid f).formats = s.formats := rfl
@[simp] theorem State.modStory_widths (s : State) (sid : Sid) (f : Story → Story) : (s.modStory sid f).widths = s.widths := rfl
@[simp] theorem State.modStory_fitQueue (s : State) (sid : Sid) (f : Story → Story) : (s.modStory sid f).fitQueue = s.fitQueue := rfl
@[simp] theorem State.modStory_chanA (s : State) (sid : Sid) (f : Story → Story) : (s.modStory sid f).chanA = s.chanA := rfl
@[simp] theorem State.modStory_chanB (s : State) (sid : Sid) (f : Story → Story) : (s.modStory sid f).chanB = s.chanB := rfl
@[simp] theorem State.modStory_host (s : State) (sid : Sid) (f : Story → Story) : (s.modStory sid f).host = s.host := rfl
@[simp] theorem State.modStory_loader (s : State) (sid : Sid) (f : Story → Story) : (s.modStory sid f).loader = s.loader := rfl
@[simp] theorem State.modStory_eeprom (s : State) (sid : Sid) (f : Story → Story) : (s.modStory sid f).eeprom = s.eeprom := rfl
@[simp] theorem State.modStory_pending (s : State) (sid : Sid) (f : Story → Story) : (s.modStory sid f).pending = s.pending := rfl
@[simp] theorem State.modStory_freeCount (s : State) (sid : Sid) (f : Story → Story) : (s.modStory sid f).freeCount = s.freeCount := rfl

/-! ### createStory -/

@[simp] theorem State.createStory_store (s : State) (sid : Sid) (st : Story) : (s.createStory sid st).store = s.store := rfl
@[simp] theorem State.createStory_baskets (s : State) (sid : Sid) (st : Story) : (s.createStory sid st).baskets = s.baskets := rfl
@[simp] theorem State.createStory_profiles (s : State) (sid : Sid) (st : Story) : (s.createStory sid st).profiles = s.profiles := rfl
@[simp] theorem State.createStory_lines (s : State) (sid : Sid) (st : Story) : (s.createStory sid st).lines = s.lines := rfl
@[simp] theorem State.createStory_term (s : State) (sid : Sid) (st : Story) : (s.createStory sid st).term = s.term := rfl
@[simp] theorem State.createStory_formats (s : State) (sid : Sid) (st : Story) : (s.createStory sid st).formats = s.formats := rfl
@[simp] theorem State.createStory_widths (s : State) (sid : Sid) (st : Story) : (s.createStory sid st).widths = s.widths := rfl
@[simp] theorem State.createStory_fitQueue (s : State) (sid : Sid) (st : Story) : (s.createStory sid st).fitQueue = s.fitQueue := rfl
@[simp] theorem State.createStory_chanA (s : State) (sid : Sid) (st : Story) : (s.createStory sid st).chanA = s.chanA := rfl
@[simp] theorem State.createStory_chanB (s : State) (sid : Sid) (st : Story) : (s.createStory sid st).chanB = s.chanB := rfl
@[simp] theorem State.createStory_host (s : State) (sid : Sid) (st : Story) : (s.createStory sid st).host = s.host := rfl
@[simp] theorem State.createStory_loader (s : State) (sid : Sid) (st : Story) : (s.createStory sid st).loader = s.loader := rfl
@[simp] theorem State.createStory_eeprom (s : State) (sid : Sid) (st : Story) : (s.createStory sid st).eeprom = s.eeprom := rfl
@[simp] theorem State.createStory_pending (s : State) (sid : Sid) (st : Story) : (s.createStory sid st).pending = s.pending := rfl
@[simp] theorem State.createStory_freeCount (s : State) (sid : Sid) (st : Story) : (s.createStory sid st).freeCount = s.freeCount := rfl

/-! ### setBasket -/

@[simp] theorem State.setBasket_store (s : State) (b : BasketNo) (x : Basket) : (s.setBasket b x).store = s.store := rfl
@[simp] theorem State.setBasket_dir (s : State) (b : BasketNo) (x : Basket) : (s.setBasket b x).dir = s.dir := rfl
@[simp] theorem State.setBasket_profiles (s : State) (b : BasketNo) (x : Basket) : (s.setBasket b x).profiles = s.profiles := rfl
@[simp] theorem State.setBasket_lines (s : State) (b : BasketNo) (x : Basket) : (s.setBasket b x).lines = s.lines := rfl
@[simp] theorem State.setBasket_term (s : State) (b : BasketNo) (x : Basket) : (s.setBasket b x).term = s.term := rfl
@[simp] theorem State.setBasket_formats (s : State) (b : BasketNo) (x : Basket) : (s.setBasket b x).formats = s.formats := rfl
@[simp] theorem State.setBasket_widths (s : State) (b : BasketNo) (x : Basket) : (s.setBasket b x).widths = s.widths := rfl
@[simp] theorem State.setBasket_fitQueue (s : State) (b : BasketNo) (x : Basket) : (s.setBasket b x).fitQueue = s.fitQueue := rfl
@[simp] theorem State.setBasket_chanA (s : State) (b : BasketNo) (x : Basket) : (s.setBasket b x).chanA = s.chanA := rfl
@[simp] theorem State.setBasket_chanB (s : State) (b : BasketNo) (x : Basket) : (s.setBasket b x).chanB = s.chanB := rfl
@[simp] theorem State.setBasket_host (s : State) (b : BasketNo) (x : Basket) : (s.setBasket b x).host = s.host := rfl
@[simp] theorem State.setBasket_loader (s : State) (b : BasketNo) (x : Basket) : (s.setBasket b x).loader = s.loader := rfl
@[simp] theorem State.setBasket_eeprom (s : State) (b : BasketNo) (x : Basket) : (s.setBasket b x).eeprom = s.eeprom := rfl
@[simp] theorem State.setBasket_pending (s : State) (b : BasketNo) (x : Basket) : (s.setBasket b x).pending = s.pending := rfl
@[simp] theorem State.setBasket_freeCount (s : State) (b : BasketNo) (x : Basket) : (s.setBasket b x).freeCount = s.freeCount := rfl

/-! ### setStories -/

@[simp] theorem State.setStories_store (s : State) (b : BasketNo) (l : List Sid) : (s.setStories b l).store = s.store := rfl
@[simp] theorem State.setStories_dir (s : State) (b : BasketNo) (l : List Sid) : (s.setStories b l).dir = s.dir := rfl
@[simp] theorem State.setStories_profiles (s : State) (b : BasketNo) (l : List Sid) : (s.setStories b l).profiles = s.profiles := rfl
@[simp] theorem State.setStories_lines (s : State) (b : BasketNo) (l : List Sid) : (s.setStories b l).lines = s.lines := rfl
@[simp] theorem State.setStories_term (s : State) (b : BasketNo) (l : List Sid) : (s.setStories b l).term = s.term := rfl
@[simp] theorem State.setStories_formats (s : State) (b : BasketNo) (l : List Sid) : (s.setStories b l).formats = s.formats := rfl
@[simp] theorem State.setStories_widths (s : State) (b : BasketNo) (l : List Sid) : (s.setStories b l).widths = s.widths := rfl
@[simp] theorem State.setStories_fitQueue (s : State) (b : BasketNo) (l : List Sid) : (s.setStories b l).fitQueue = s.fitQueue := rfl
@[simp] theorem State.setStories_chanA (s : State) (b : BasketNo) (l : List Sid) : (s.setStories b l).chanA = s.chanA := rfl
@[simp] theorem State.setStories_chanB (s : State) (b : BasketNo) (l : List Sid) : (s.setStories b l).chanB = s.chanB := rfl
@[simp] theorem State.setStories_host (s : State) (b : BasketNo) (l : List Sid) : (s.setStories b l).host = s.host := rfl
@[simp] theorem State.setStories_loader (s : State) (b : BasketNo) (l : List Sid) : (s.setStories b l).loader = s.loader := rfl
@[simp] theorem State.setStories_eeprom (s : State) (b : BasketNo) (l : List Sid) : (s.setStories b l).eeprom = s.eeprom := rfl
@[simp] theorem State.setStories_pending (s : State) (b : BasketNo) (l : List Sid) : (s.setStories b l).pending = s.pending := rfl
@[simp] theorem State.setStories_freeCount (s : State) (b : BasketNo) (l : List Sid) : (s.setStories b l).freeCount = s.freeCount := rfl

/-! ### offer -/

@[simp] theorem State.offer_store (s : State) (n : Notice) : (s.offer n).store = s.store := rfl
@[simp] theorem State.offer_dir (s : State) (n : Notice) : (s.offer n).dir = s.dir := rfl
@[simp] theorem State.offer_baskets (s : State) (n : Notice) : (s.offer n).baskets = s.baskets := rfl
@[simp] theorem State.offer_profiles (s : State) (n : Notice) : (s.offer n).profiles = s.profiles := rfl
@[simp] theorem State.offer_lines (s : State) (n : Notice) : (s.offer n).lines = s.lines := rfl
@[simp] theorem State.offer_term (s : State) (n : Notice) : (s.offer n).term = s.term := rfl
@[simp] theorem State.offer_formats (s : State) (n : Notice) : (s.offer n).formats = s.formats := rfl
@[simp] theorem State.offer_widths (s : State) (n : Notice) : (s.offer n).widths = s.widths := rfl
@[simp] theorem State.offer_fitQueue (s : State) (n : Notice) : (s.offer n).fitQueue = s.fitQueue := rfl
@[simp] theorem State.offer_chanA (s : State) (n : Notice) : (s.offer n).chanA = s.chanA := rfl
@[simp] theorem State.offer_chanB (s : State) (n : Notice) : (s.offer n).chanB = s.chanB := rfl
@[simp] theorem State.offer_loader (s : State) (n : Notice) : (s.offer n).loader = s.loader := rfl
@[simp] theorem State.offer_eeprom (s : State) (n : Notice) : (s.offer n).eeprom = s.eeprom := rfl
@[simp] theorem State.offer_pending (s : State) (n : Notice) : (s.offer n).pending = s.pending := rfl
@[simp] theorem State.offer_freeCount (s : State) (n : Notice) : (s.offer n).freeCount = s.freeCount := rfl

/-! ### setStore -/

@[simp] theorem State.setStore_dir (s : State) (x : List Block) : (s.setStore x).dir = s.dir := rfl
@[simp] theorem State.setStore_baskets (s : State) (x : List Block) : (s.setStore x).baskets = s.baskets := rfl
@[simp] theorem State.setStore_profiles (s : State) (x : List Block) : (s.setStore x).profiles = s.profiles := rfl
@[simp] theorem State.setStore_lines (s : State) (x : List Block) : (s.setStore x).lines = s.lines := rfl
@[simp] theorem State.setStore_term (s : State) (x : List Block) : (s.setStore x).term = s.term := rfl
@[simp] theorem State.setStore_formats (s : State) (x : List Block) : (s.setStore x).formats = s.formats := rfl
@[simp] theorem State.setStore_widths (s : State) (x : List Block) : (s.setStore x).widths = s.widths := rfl
@[simp] theorem State.setStore_fitQueue (s : State) (x : List Block) : (s.setStore x).fitQueue = s.fitQueue := rfl
@[simp] theorem State.setStore_chanA (s : State) (x : List Block) : (s.setStore x).chanA = s.chanA := rfl
@[simp] theorem State.setStore_chanB (s : State) (x : List Block) : (s.setStore x).chanB = s.chanB := rfl
@[simp] theorem State.setStore_host (s : State) (x : List Block) : (s.setStore x).host = s.host := rfl
@[simp] theorem State.setStore_loader (s : State) (x : List Block) : (s.setStore x).loader = s.loader := rfl
@[simp] theorem State.setStore_eeprom (s : State) (x : List Block) : (s.setStore x).eeprom = s.eeprom := rfl
@[simp] theorem State.setStore_pending (s : State) (x : List Block) : (s.setStore x).pending = s.pending := rfl
@[simp] theorem State.setStore_freeCount (s : State) (x : List Block) : (s.setStore x).freeCount = s.freeCount := rfl

/-! ### setChain -/

@[simp] theorem State.setChain_store (s : State) (sid : Sid) (c : List Nat) : (s.setChain sid c).store = s.store := rfl
@[simp] theorem State.setChain_baskets (s : State) (sid : Sid) (c : List Nat) : (s.setChain sid c).baskets = s.baskets := rfl
@[simp] theorem State.setChain_profiles (s : State) (sid : Sid) (c : List Nat) : (s.setChain sid c).profiles = s.profiles := rfl
@[simp] theorem State.setChain_lines (s : State) (sid : Sid) (c : List Nat) : (s.setChain sid c).lines = s.lines := rfl
@[simp] theorem State.setChain_term (s : State) (sid : Sid) (c : List Nat) : (s.setChain sid c).term = s.term := rfl
@[simp] theorem State.setChain_formats (s : State) (sid : Sid) (c : List Nat) : (s.setChain sid c).formats = s.formats := rfl
@[simp] theorem State.setChain_widths (s : State) (sid : Sid) (c : List Nat) : (s.setChain sid c).widths = s.widths := rfl
@[simp] theorem State.setChain_fitQueue (s : State) (sid : Sid) (c : List Nat) : (s.setChain sid c).fitQueue = s.fitQueue := rfl
@[simp] theorem State.setChain_chanA (s : State) (sid : Sid) (c : List Nat) : (s.setChain sid c).chanA = s.chanA := rfl
@[simp] theorem State.setChain_chanB (s : State) (sid : Sid) (c : List Nat) : (s.setChain sid c).chanB = s.chanB := rfl
@[simp] theorem State.setChain_host (s : State) (sid : Sid) (c : List Nat) : (s.setChain sid c).host = s.host := rfl
@[simp] theorem State.setChain_loader (s : State) (sid : Sid) (c : List Nat) : (s.setChain sid c).loader = s.loader := rfl
@[simp] theorem State.setChain_eeprom (s : State) (sid : Sid) (c : List Nat) : (s.setChain sid c).eeprom = s.eeprom := rfl
@[simp] theorem State.setChain_pending (s : State) (sid : Sid) (c : List Nat) : (s.setChain sid c).pending = s.pending := rfl
@[simp] theorem State.setChain_freeCount (s : State) (sid : Sid) (c : List Nat) : (s.setChain sid c).freeCount = s.freeCount := rfl

/-! ### spoilFit -/

@[simp] theorem State.spoilFit_store (s : State) (sid : Sid) : (s.spoilFit sid).store = s.store := rfl
@[simp] theorem State.spoilFit_dir (s : State) (sid : Sid) : (s.spoilFit sid).dir = s.dir := rfl
@[simp] theorem State.spoilFit_baskets (s : State) (sid : Sid) : (s.spoilFit sid).baskets = s.baskets := rfl
@[simp] theorem State.spoilFit_profiles (s : State) (sid : Sid) : (s.spoilFit sid).profiles = s.profiles := rfl
@[simp] theorem State.spoilFit_lines (s : State) (sid : Sid) : (s.spoilFit sid).lines = s.lines := rfl
@[simp] theorem State.spoilFit_term (s : State) (sid : Sid) : (s.spoilFit sid).term = s.term := rfl
@[simp] theorem State.spoilFit_formats (s : State) (sid : Sid) : (s.spoilFit sid).formats = s.formats := rfl
@[simp] theorem State.spoilFit_widths (s : State) (sid : Sid) : (s.spoilFit sid).widths = s.widths := rfl
@[simp] theorem State.spoilFit_chanA (s : State) (sid : Sid) : (s.spoilFit sid).chanA = s.chanA := rfl
@[simp] theorem State.spoilFit_chanB (s : State) (sid : Sid) : (s.spoilFit sid).chanB = s.chanB := rfl
@[simp] theorem State.spoilFit_host (s : State) (sid : Sid) : (s.spoilFit sid).host = s.host := rfl
@[simp] theorem State.spoilFit_loader (s : State) (sid : Sid) : (s.spoilFit sid).loader = s.loader := rfl
@[simp] theorem State.spoilFit_eeprom (s : State) (sid : Sid) : (s.spoilFit sid).eeprom = s.eeprom := rfl
@[simp] theorem State.spoilFit_pending (s : State) (sid : Sid) : (s.spoilFit sid).pending = s.pending := rfl
@[simp] theorem State.spoilFit_freeCount (s : State) (sid : Sid) : (s.spoilFit sid).freeCount = s.freeCount := rfl

/-! ### outdateFit -/

@[simp] theorem State.outdateFit_store (s : State) : s.outdateFit.store = s.store := rfl
@[simp] theorem State.outdateFit_dir (s : State) : s.outdateFit.dir = s.dir := rfl
@[simp] theorem State.outdateFit_baskets (s : State) : s.outdateFit.baskets = s.baskets := rfl
@[simp] theorem State.outdateFit_profiles (s : State) : s.outdateFit.profiles = s.profiles := rfl
@[simp] theorem State.outdateFit_lines (s : State) : s.outdateFit.lines = s.lines := rfl
@[simp] theorem State.outdateFit_term (s : State) : s.outdateFit.term = s.term := rfl
@[simp] theorem State.outdateFit_formats (s : State) : s.outdateFit.formats = s.formats := rfl
@[simp] theorem State.outdateFit_widths (s : State) : s.outdateFit.widths = s.widths := rfl
@[simp] theorem State.outdateFit_chanA (s : State) : s.outdateFit.chanA = s.chanA := rfl
@[simp] theorem State.outdateFit_chanB (s : State) : s.outdateFit.chanB = s.chanB := rfl
@[simp] theorem State.outdateFit_host (s : State) : s.outdateFit.host = s.host := rfl
@[simp] theorem State.outdateFit_loader (s : State) : s.outdateFit.loader = s.loader := rfl
@[simp] theorem State.outdateFit_eeprom (s : State) : s.outdateFit.eeprom = s.eeprom := rfl
@[simp] theorem State.outdateFit_pending (s : State) : s.outdateFit.pending = s.pending := rfl
@[simp] theorem State.outdateFit_freeCount (s : State) : s.outdateFit.freeCount = s.freeCount := rfl

/-! ### setChan -/

@[simp] theorem State.setChan_store (s : State) (ch : Chan) (c : Channel) : (s.setChan ch c).store = s.store := by cases ch <;> rfl
@[simp] theorem State.setChan_dir (s : State) (ch : Chan) (c : Channel) : (s.setChan ch c).dir = s.dir := by cases ch <;> rfl
@[simp] theorem State.setChan_baskets (s : State) (ch : Chan) (c : Channel) : (s.setChan ch c).baskets = s.baskets := by cases ch <;> rfl
@[simp] theorem State.setChan_profiles (s : State) (ch : Chan) (c : Channel) : (s.setChan ch c).profiles = s.profiles := by cases ch <;> rfl
@[simp] theorem State.setChan_lines (s : State) (ch : Chan) (c : Channel) : (s.setChan ch c).lines = s.lines := by cases ch <;> rfl
@[simp] theorem State.setChan_term (s : State) (ch : Chan) (c : Channel) : (s.setChan ch c).term = s.term := by cases ch <;> rfl
@[simp] theorem State.setChan_formats (s : State) (ch : Chan) (c : Channel) : (s.setChan ch c).formats = s.formats := by cases ch <;> rfl
@[simp] theorem State.setChan_widths (s : State) (ch : Chan) (c : Channel) : (s.setChan ch c).widths = s.widths := by cases ch <;> rfl
@[simp] theorem State.setChan_fitQueue (s : State) (ch : Chan) (c : Channel) : (s.setChan ch c).fitQueue = s.fitQueue := by cases ch <;> rfl
@[simp] theorem State.setChan_host (s : State) (ch : Chan) (c : Channel) : (s.setChan ch c).host = s.host := by cases ch <;> rfl
@[simp] theorem State.setChan_loader (s : State) (ch : Chan) (c : Channel) : (s.setChan ch c).loader = s.loader := by cases ch <;> rfl
@[simp] theorem State.setChan_eeprom (s : State) (ch : Chan) (c : Channel) : (s.setChan ch c).eeprom = s.eeprom := by cases ch <;> rfl
@[simp] theorem State.setChan_pending (s : State) (ch : Chan) (c : Channel) : (s.setChan ch c).pending = s.pending := by cases ch <;> rfl
@[simp] theorem State.setChan_freeCount (s : State) (ch : Chan) (c : Channel) : (s.setChan ch c).freeCount = s.freeCount := by cases ch <;> rfl

/-! ### modChan -/

@[simp] theorem State.modChan_store (s : State) (ch : Chan) (f : Channel → Channel) : (s.modChan ch f).store = s.store := by cases ch <;> rfl
@[simp] theorem State.modChan_dir (s : State) (ch : Chan) (f : Channel → Channel) : (s.modChan ch f).dir = s.dir := by cases ch <;> rfl
@[simp] theorem State.modChan_baskets (s : State) (ch : Chan) (f : Channel → Channel) : (s.modChan ch f).baskets = s.baskets := by cases ch <;> rfl
@[simp] theorem State.modChan_profiles (s : State) (ch : Chan) (f : Channel → Channel) : (s.modChan ch f).profiles = s.profiles := by cases ch <;> rfl
@[simp] theorem State.modChan_lines (s : State) (ch : Chan) (f : Channel → Channel) : (s.modChan ch f).lines = s.lines := by cases ch <;> rfl
@[simp] theorem State.modChan_term (s : State) (ch : Chan) (f : Channel → Channel) : (s.modChan ch f).term = s.term := by cases ch <;> rfl
@[simp] theorem State.modChan_formats (s : State) (ch : Chan) (f : Channel → Channel) : (s.modChan ch f).formats = s.formats := by cases ch <;> rfl
@[simp] theorem State.modChan_widths (s : State) (ch : Chan) (f : Channel → Channel) : (s.modChan ch f).widths = s.widths := by cases ch <;> rfl
@[simp] theorem State.modChan_fitQueue (s : State) (ch : Chan) (f : Channel → Channel) : (s.modChan ch f).fitQueue = s.fitQueue := by cases ch <;> rfl
@[simp] theorem State.modChan_host (s : State) (ch : Chan) (f : Channel → Channel) : (s.modChan ch f).host = s.host := by cases ch <;> rfl
@[simp] theorem State.modChan_loader (s : State) (ch : Chan) (f : Channel → Channel) : (s.modChan ch f).loader = s.loader := by cases ch <;> rfl
@[simp] theorem State.modChan_eeprom (s : State) (ch : Chan) (f : Channel → Channel) : (s.modChan ch f).eeprom = s.eeprom := by cases ch <;> rfl
@[simp] theorem State.modChan_pending (s : State) (ch : Chan) (f : Channel → Channel) : (s.modChan ch f).pending = s.pending := by cases ch <;> rfl
@[simp] theorem State.modChan_freeCount (s : State) (ch : Chan) (f : Channel → Channel) : (s.modChan ch f).freeCount = s.freeCount := by cases ch <;> rfl

/-! ## What an update gives the field it writes -/

@[simp] theorem State.setLine_lines (s : State) (l : LineNo) (r : LineRec) : (s.setLine l r).lines = s.lines.set l r := rfl
@[simp] theorem State.modLine_lines (s : State) (l : LineNo) (f : LineRec → LineRec) :
    (s.modLine l f).lines = s.lines.set l (f s.lines[l]) := rfl
@[simp] theorem State.setRec_dir (s : State) (sid : Sid) (r : Rec) : (s.setRec sid r).dir = s.dir.set sid r := rfl
@[simp] theorem State.setBasket_baskets (s : State) (b : BasketNo) (x : Basket) :
    (s.setBasket b x).baskets = s.baskets.set b x := rfl
@[simp] theorem State.setStore_store (s : State) (x : List Block) : (s.setStore x).store = x := rfl
@[simp] theorem State.offer_host (s : State) (n : Notice) : (s.offer n).host = s.host.offer n := rfl

/-- The channel just set is the channel read. -/
@[simp] theorem State.chan_setChan (s : State) (ch : Chan) (c : Channel) : (s.setChan ch c).chan ch = c := by cases ch <;> rfl

/-- The other channel is as it was. -/
theorem State.chan_setChan_ne (s : State) {ch other : Chan} (c : Channel) (h : other ≠ ch) :
    (s.setChan ch c).chan other = s.chan other := by
  cases ch <;> cases other <;> first | rfl | exact absurd rfl h

@[simp] theorem State.chan_modChan (s : State) (ch : Chan) (f : Channel → Channel) :
    (s.modChan ch f).chan ch = f (s.chan ch) := by simp [State.modChan]

/-- A vector read where it was just written, by an index of bounded type. -/
theorem Vector.get_set_fin {α : Type} {n : Nat} (v : Vector α n) (i : Fin n) (x : α) : (v.set i x)[i] = x := by simp

/-- A vector read where it was not written. -/
theorem Vector.get_set_fin_ne {α : Type} {n : Nat} (v : Vector α n) {i j : Fin n} (x : α) (h : j ≠ i) :
    (v.set i x)[j] = v[j] := by
  have : (i : Nat) ≠ j := fun e => h (Fin.ext e.symm)
  simp [this]

/-- The line just set is the line read. -/
@[simp] theorem State.line_setLine (s : State) (l : LineNo) (r : LineRec) : (s.setLine l r).lines[l] = r := by
  simp [State.setLine]

/-- Every other line is as it was. -/
theorem State.line_setLine_ne (s : State) {l m : LineNo} (r : LineRec) (h : m ≠ l) :
    (s.setLine l r).lines[m] = s.lines[m] := Vector.get_set_fin_ne s.lines r h

/-- Every session after its change, in place. -/
@[simp] theorem State.line_modSessions (s : State) (f : LineNo → Session → Session) (l : LineNo) :
    (s.modSessions f).lines[l] = { s.lines[l] with owner := s.lines[l].owner.mapSession (f l) } := by
  simp [State.modSessions]

/-- The story record just set is the one read. -/
@[simp] theorem State.rec_setRec (s : State) (sid : Sid) (r : Rec) : (s.setRec sid r).dir[sid] = r := by
  simp [State.setRec]

/-- Every other record is as it was. -/
theorem State.rec_setRec_ne (s : State) {sid x : Sid} (r : Rec) (h : x ≠ sid) : (s.setRec sid r).dir[x] = s.dir[x] :=
  Vector.get_set_fin_ne s.dir r h

/-- A changed story keeps its key. -/
@[simp] theorem State.keyOf_modStory (s : State) (sid x : Sid) (f : Story → Story) :
    (s.modStory sid f).keyOf x = s.keyOf x := by
  by_cases h : x = sid
  · subst h; simp [State.modStory, State.keyOf, State.setRec]
  · simp only [State.modStory, State.keyOf, State.rec_setRec_ne _ _ h]

/-- The story of a changed record. -/
@[simp] theorem State.story_modStory (s : State) (sid : Sid) (f : Story → Story) :
    (s.modStory sid f).story? sid = (s.story? sid).map f := by simp [State.modStory, State.story?]

/-- The stories of other records are as they were. -/
theorem State.story_modStory_ne (s : State) {sid x : Sid} (f : Story → Story) (h : x ≠ sid) :
    (s.modStory sid f).story? x = s.story? x := by simp only [State.modStory, State.story?, State.rec_setRec_ne _ _ h]

/-- The list of a basket just set. -/
@[simp] theorem State.stories_setStories (s : State) (b : BasketNo) (x : List Sid) : (s.setStories b x).stories b = x := by
  simp [State.setStories, State.setBasket, State.stories]

/-- The lists of other baskets are as they were. -/
theorem State.stories_setStories_ne (s : State) {b c : BasketNo} (x : List Sid) (h : c ≠ b) :
    (s.setStories b x).stories c = s.stories c := by
  simp only [State.setStories, State.setBasket, State.stories]; rw [Vector.get_set_fin_ne _ _ h]

/-- A basket's name stays when its list changes. -/
@[simp] theorem State.name_setStories (s : State) (b c : BasketNo) (x : List Sid) :
    (s.setStories b x).baskets[c].name = s.baskets[c].name := by
  by_cases h : c = b
  · subst h; simp [State.setStories, State.setBasket]
  · simp only [State.setStories, State.setBasket]; rw [Vector.get_set_fin_ne _ _ h]

end Sys2Proof.Machine
end

