-- ==== Sys2Proof/Laws/Event.lean ====
section
/-! SUPPORT. The end of an event: it runs on, and changes nothing but what `State.core` leaves out and the outbound stream; and what
marking row 0 of a story's screens and spoiling its fit do. -/

namespace Sys2Proof.Machine

/-! ## A session -/

@[simp] theorem Session.core_core (ss : Session) : ss.core.core = ss.core := by
  simp [Session.core, Option.map_map, Function.comp_def]

@[simp] theorem Session.core_mark (p : Fin 24 → Bool) (ss : Session) : (ss.mark p).core = ss.core := by
  simp only [Session.mark, Session.core]
@[simp] theorem Session.core_markAll (ss : Session) : ss.markAll.core = ss.core := ss.core_mark _
@[simp] theorem Session.core_markRow (r : Fin 24) (ss : Session) : (ss.markRow r).core = ss.core := ss.core_mark _
@[simp] theorem Session.core_markRows (a b : Nat) (ss : Session) : (ss.markRows a b).core = ss.core :=
  ss.core_mark _
@[simp] theorem Session.core_pendMode (m : ModeCode) (ss : Session) : (ss.pendMode m).core = ss.core := by
  simp only [Session.pendMode, Session.core]
@[simp] theorem Session.core_pendCursor (ss : Session) : ss.pendCursor.core = ss.core := by
  simp only [Session.pendCursor, Session.core]
@[simp] theorem Session.core_ring (ss : Session) : ss.ring.core = ss.core := by
  simp only [Session.ring, Session.core]

@[simp] theorem Session.core_markFrom (b : BasketNo) (i : Nat) (ss : Session) : (ss.markFrom b i).core = ss.core := by
  unfold Session.markFrom; split
  · split <;> simp
  · rfl

@[simp] theorem Session.core_showView (v w : View) (ss : Session) :
    (ss.showView v w).core = { ss with view := some w }.core := by
  unfold Session.showView; dsimp only; split
  · simp
  · split <;> simp

@[simp] theorem Session.core_fitView (s : State) (ss : Session) : (ss.fitView s).core = ss.core := by
  unfold Session.fitView; split
  · next v _ hv => rw [Session.core_showView]; simp [Session.core, hv, View.within]
  · rfl

@[simp] theorem Session.core_markView (a b : State) (o : Option Session) (ss : Session) :
    (ss.markView a b o).core = ss.core := by
  unfold Session.markView; split
  · split
    · rfl
    · split
      · split <;> simp
      · rfl
  · rfl

@[simp] theorem Session.core_markStatus (a b : State) (l : LineNo) (o : Option Session) (ss : Session) :
    (ss.markStatus a b l o).core = ss.core := by
  unfold Session.markStatus; split
  · simp
  · rfl

@[simp] theorem Session.core_redraw (s : State) (ss : Session) : (ss.redraw s).core = ss.core := by
  simp only [Session.redraw, Session.mark, Session.core]

@[simp] theorem Session.core_moveScreenCursor (s : State) (ss : Session) : (ss.moveScreenCursor s).core = ss.core := by
  unfold Session.moveScreenCursor; dsimp only; split
  · rfl
  · simp only [Session.pendCursor, Session.core]

@[simp] theorem Session.core_refresh (a b : State) (l : LineNo) (ss : Session) : (ss.refresh a b l).core = ss.core := by
  simp [Session.refresh]

@[simp] theorem Session.core_endRow (f : Flight) (ss : Session) : (ss.endRow f).core = ss.core := by
  unfold Session.endRow; split
  · rfl
  · dsimp only; split <;> rfl

@[simp] theorem Session.core_endCode (c : CodeOut) (ss : Session) : (ss.endCode c).core = ss.core := by
  unfold Session.endCode; split <;> rfl

@[simp] theorem Session.core_choose (ss : Session) : ss.choose.2.core = ss.core := by
  unfold Session.choose
  split
  · rfl
  · split
    · rfl
    · split
      · rfl
      · split
        · rfl
        · split <;> rfl

@[simp] theorem Session.core_nextByte (ss : Session) : ss.nextByte.2.core = ss.core := by
  unfold Session.nextByte
  split
  · split
    · rfl
    · simp
  · split
    · rfl
    · simp
  · simp

/-! ## A line -/

@[simp] theorem Owner.mapSession_mapSession (f g : Session → Session) (o : Owner) :
    (o.mapSession f).mapSession g = o.mapSession fun ss => g (f ss) := by cases o <;> rfl

@[simp] theorem Owner.role_mapSession (f : Session → Session) (o : Owner) : (o.mapSession f).role = o.role := by
  cases o <;> rfl

@[simp] theorem Owner.session_mapSession (f : Session → Session) (o : Owner) :
    (o.mapSession f).session? = o.session?.map f := by cases o <;> rfl

@[simp] theorem Owner.intake_mapSession (f : Session → Session) (o : Owner) : (o.mapSession f).intake? = o.intake? := by
  cases o <;> rfl

@[simp] theorem LineRec.core_put (b : Byte) (r : LineRec) : (r.put b).core = r.core := by
  unfold LineRec.put; split <;> rfl

theorem LineRec.core_fill (n : Nat) (r : LineRec) : (r.fill n).core = r.core := by
  induction n generalizing r with
  | zero => rfl
  | succ n ih =>
    unfold LineRec.fill
    split
    · rfl
    · split
      · next ss hs =>
        have hc := ss.core_nextByte
        split
        · next s' h => rw [h] at hc; simp [LineRec.core, hs, Owner.mapSession, hc]
        · next b s' h => rw [h] at hc; rw [ih, LineRec.core_put]; simp [LineRec.core, hs, Owner.mapSession, hc]
      · split
        · rfl
        · rw [ih, LineRec.core_put]; rfl
      · rfl
      · rfl

@[simp] theorem LineRec.core_settle (a b : State) (l : LineNo) (r : LineRec) : (r.settle a b l).core = r.core := by
  rw [LineRec.settle, LineRec.core_fill]; simp [LineRec.core]

@[simp] theorem LineRec.core_core (r : LineRec) : r.core.core = r.core := by simp [LineRec.core]

/-! ## The whole event -/

@[simp] theorem State.core_settle (a b : State) : (a.settle b).core = b.core := by
  simp only [State.core, State.settle, State.mk.injEq, true_and, and_true]
  ext1 i h; simp

@[simp] theorem State.core_finish (a b : State) : (a.finish b).core = b.core := by
  rw [← State.core_settle a b]
  simp only [State.finish, State.core]
  split
  · rfl
  · unfold HostChan.pump HostChan.sendNotice
    split <;> (repeat' split) <;> rfl

@[simp] theorem State.host_finish (a b : State) : (a.finish b).host = b.portOut := by
  simp only [State.finish, State.settle, State.portOut]; rfl

/-- An event reaches what its meaning makes of the state. -/
theorem reaches_ended (a b : State) : Reaches (ended a b) b := ⟨_, rfl, by simp, by simp⟩

/-- A command whose event cannot happen leaves the state as it is. -/
theorem runsTo_next (s : State) (P : State → Prop) (h : P s) : RunsTo (.next s) P := ⟨s, rfl, h⟩

/-! What the end of an event leaves alone, field by field. -/

@[simp] theorem State.finish_store (a b : State) : (a.finish b).store = b.store := by
  simp only [State.finish, State.settle]
@[simp] theorem State.finish_dir (a b : State) : (a.finish b).dir = b.dir := by
  simp only [State.finish, State.settle]
@[simp] theorem State.finish_baskets (a b : State) : (a.finish b).baskets = b.baskets := by
  simp only [State.finish, State.settle]
@[simp] theorem State.finish_profiles (a b : State) : (a.finish b).profiles = b.profiles := by
  simp only [State.finish, State.settle]
@[simp] theorem State.finish_term (a b : State) : (a.finish b).term = b.term := by
  simp only [State.finish, State.settle]
@[simp] theorem State.finish_formats (a b : State) : (a.finish b).formats = b.formats := by
  simp only [State.finish, State.settle]
@[simp] theorem State.finish_widths (a b : State) : (a.finish b).widths = b.widths := by
  simp only [State.finish, State.settle]
@[simp] theorem State.finish_fitQueue (a b : State) : (a.finish b).fitQueue = b.fitQueue := by
  simp only [State.finish, State.settle]
@[simp] theorem State.finish_chanA (a b : State) : (a.finish b).chanA = b.chanA := by
  simp only [State.finish, State.settle]
@[simp] theorem State.finish_chanB (a b : State) : (a.finish b).chanB = b.chanB := by
  simp only [State.finish, State.settle]
@[simp] theorem State.finish_loader (a b : State) : (a.finish b).loader = b.loader := by
  simp only [State.finish, State.settle]
@[simp] theorem State.finish_eeprom (a b : State) : (a.finish b).eeprom = b.eeprom := by
  simp only [State.finish, State.settle]
@[simp] theorem State.finish_pending (a b : State) : (a.finish b).pending = b.pending := by
  simp only [State.finish, State.settle]
@[simp] theorem State.finish_chan (a b : State) (ch : Chan) : (a.finish b).chan ch = b.chan ch := by
  cases ch <;> simp [State.chan]

theorem LineRec.core_receiver (r : LineRec) : r.core.receiver = r.receiver := rfl

/-- Every line after an event, but for its transmitter and its screen sending. -/
theorem State.finish_line_core (a b : State) (l : LineNo) : (a.finish b).lines[l].core = b.lines[l].core := by
  simp only [State.finish, State.settle, Fin.getElem_fin, Vector.getElem_ofFn, LineRec.core_settle]

theorem LineRec.role_core (r : LineRec) : r.core.owner.role = r.owner.role := by simp [LineRec.core]

@[simp] theorem State.finish_role (a b : State) (l : LineNo) : (a.finish b).lines[l].owner.role = b.lines[l].owner.role := by
  rw [← LineRec.role_core, State.finish_line_core, LineRec.role_core]

@[simp] theorem State.finish_receiver (a b : State) (l : LineNo) : (a.finish b).lines[l].receiver = b.lines[l].receiver := by
  rw [← LineRec.core_receiver, State.finish_line_core, LineRec.core_receiver]

theorem LineRec.session_core (r : LineRec) : r.core.owner.session? = r.owner.session?.map Session.core := by
  simp [LineRec.core]

@[simp] theorem State.finish_sessionCore (a b : State) (l : LineNo) : (a.finish b).sessionCore l = b.sessionCore l := by
  unfold State.sessionCore State.session?
  rw [← LineRec.session_core, State.finish_line_core, LineRec.session_core]

@[simp] theorem State.finish_intake (a b : State) (l : LineNo) : (a.finish b).intake? l = b.intake? l := by
  have h : ∀ r : LineRec, r.core.owner.intake? = r.owner.intake? := fun r => by simp [LineRec.core]
  unfold State.intake?
  rw [← h, State.finish_line_core, h]

/-! The outbound stream (R180). -/

@[simp] theorem HostChan.sendNotice_reply (h : HostChan) : h.sendNotice.reply = h.reply := by
  unfold HostChan.sendNotice; split <;> rfl
@[simp] theorem HostChan.sendNotice_active (h : HostChan) : h.sendNotice.active = h.active := by
  unfold HostChan.sendNotice; split <;> rfl
@[simp] theorem HostChan.sendNotice_overflow (h : HostChan) : h.sendNotice.overflow = h.overflow := by
  unfold HostChan.sendNotice; split <;> rfl
@[simp] theorem HostChan.sendNotice_badFrames (h : HostChan) : h.sendNotice.badFrames = h.badFrames := by
  unfold HostChan.sendNotice; split <;> rfl
@[simp] theorem HostChan.sendNotice_notices (h : HostChan) : h.sendNotice.notices = h.notices.tail := by
  unfold HostChan.sendNotice; split <;> simp_all

/-- With no drop behind it a reply goes as it was made (R179). -/
@[simp] theorem sentReply_false (bytes : List Byte) : sentReply false bytes = bytes := by simp [sentReply]

/-- A reply sent while the overflow flag is set carries it, but for an answer DONE to STATUS (R181, R186). -/
theorem sentReply_true (made : Bool) (f : Frame) (r : Res) (body : List Byte) (h : f.kind = 0x01 → r ≠ .done) :
    sentReply true (replyFrame made f r body) = replyFrame true f r body := by
  have hb : r.byte = Res.done.byte → r = .done := by cases r <;> simp [Res.byte]
  by_cases hk : f.kind = 0x01 <;> by_cases hr : r = .done <;> simp_all [sentReply, replyFrame, frameBytes, be16, wordBytes]

/-- An answer DONE to STATUS is sent as it was made (R181). -/
theorem sentReply_status (overflow made : Bool) (f : Frame) (body : List Byte) (h : f.kind = 0x01) :
    sentReply overflow (replyFrame made f .done body) = replyFrame made f .done body := by
  simp [sentReply, replyFrame, frameBytes, be16, wordBytes, h]

/-- What the end of an event makes of the stream: nothing, the reply begun, or the notice at the head begun (R180, R187). -/
theorem HostChan.pump_cases (h : HostChan) :
    h.pump = h ∨ (∃ bytes, h.imageStateDue = false ∧ h.reply = some bytes ∧
      h.pump = { h with out := some { rest := sentReply h.overflow bytes, reply := true } }) ∨
    ((h.imageStateDue = true ∨ (h.reply = none ∧ h.orderDue = false)) ∧ h.pump = h.sendNotice) := by
  unfold HostChan.pump; split
  · split
    · next hi => exact .inr (.inr ⟨.inl hi, rfl⟩)
    · next hi =>
      split
      · next bytes hr => exact .inr (.inl ⟨bytes, by simpa using hi, hr, rfl⟩)
      · next hr =>
        split
        · exact .inl rfl
        · next ho => exact .inr (.inr ⟨.inr ⟨hr, by simpa using ho⟩, rfl⟩)
  · exact .inl rfl

@[simp] theorem HostChan.pump_reply (h : HostChan) : h.pump.reply = h.reply := by
  rcases h.pump_cases with e | ⟨_, _, _, e⟩ | ⟨_, e⟩ <;> simp [e]
@[simp] theorem HostChan.pump_active (h : HostChan) : h.pump.active = h.active := by
  rcases h.pump_cases with e | ⟨_, _, _, e⟩ | ⟨_, e⟩ <;> simp [e]
@[simp] theorem HostChan.pump_overflow (h : HostChan) : h.pump.overflow = h.overflow := by
  rcases h.pump_cases with e | ⟨_, _, _, e⟩ | ⟨_, e⟩ <;> simp [e]
@[simp] theorem HostChan.pump_badFrames (h : HostChan) : h.pump.badFrames = h.badFrames := by
  rcases h.pump_cases with e | ⟨_, _, _, e⟩ | ⟨_, e⟩ <;> simp [e]

/-- What leaves the notice queue by the stream is its head. -/
theorem HostChan.pump_notices (h : HostChan) : h.pump.notices = h.notices ∨ h.pump.notices = h.notices.tail := by
  rcases h.pump_cases with e | ⟨_, _, _, e⟩ | ⟨_, e⟩ <;> simp [e]

/-- While an order may be taken the stream takes no notice but IMAGE_STATE. -/
theorem HostChan.pump_orderDue (h : HostChan) (hi : h.imageStateDue = false) (hd : h.orderDue = true) : h.pump = h := by
  have hr : h.reply = none := by simp_all [HostChan.orderDue]
  rcases h.pump_cases with e | ⟨_, _, hs, _⟩ | ⟨hs | ⟨_, hs⟩, _⟩
  · exact e
  · simp_all
  · simp_all
  · simp_all

/-- With a reply waiting the stream takes no notice but IMAGE_STATE. -/
theorem HostChan.pump_notices_reply (h : HostChan) (hi : h.imageStateDue = false) (hr : h.reply ≠ none) :
    h.pump.notices = h.notices := by
  rcases h.pump_cases with e | ⟨_, _, _, e⟩ | ⟨hs | ⟨hs, _⟩, _⟩ <;> simp_all

@[simp] theorem State.portOut_reply (s : State) : s.portOut.reply = s.host.reply := by unfold State.portOut; split <;> simp
@[simp] theorem State.portOut_active (s : State) : s.portOut.active = s.host.active := by unfold State.portOut; split <;> simp
@[simp] theorem State.portOut_overflow (s : State) : s.portOut.overflow = s.host.overflow := by
  unfold State.portOut; split <;> simp
@[simp] theorem State.portOut_badFrames (s : State) : s.portOut.badFrames = s.host.badFrames := by
  unfold State.portOut; split <;> simp

theorem State.portOut_notices (s : State) : s.portOut.notices = s.host.notices ∨ s.portOut.notices = s.host.notices.tail := by
  unfold State.portOut; split
  · exact .inl rfl
  · exact s.host.pump_notices

/-! ## Row 0 of a story's screens -/

/-- The session on a line after every session has been changed. -/
@[simp] theorem State.session_modSessions (s : State) (f : LineNo → Session → Session) (l : LineNo) :
    (s.modSessions f).session? l = (s.session? l).map (f l) := by
  simp only [State.session?, State.line_modSessions]
  cases s.lines[l].owner <;> rfl

/-- The lines whose sessions show a story's values in row 0: its holder's, its reviewers', and those that show it (R72, R157). -/
theorem Story.follows_iff (l : LineNo) (st : Story) : st.follows l = true ↔ st.place = .held l ∨ l ∈ st.reviewers := by
  rw [Story.follows, Bool.or_eq_true, List.contains_iff_mem]
  refine or_congr ?_ Iff.rfl
  cases st.place with
  | held m => simp only [Place.isHeldBy, beq_iff_eq, Place.held.injEq]; exact eq_comm
  | _ => simp [Place.isHeldBy]

/-- What `markShown` does to a session: row 0 is marked on those it concerns, and no other changes. -/
theorem State.session_markShown (s : State) (sid : Sid) (l : LineNo) (ss : Session) (h : s.session? l = some ss) :
    ((ss.shows sid = true ∨ ∃ st, s.story? sid = some st ∧ (st.place = .held l ∨ l ∈ st.reviewers)) →
      (s.markShown sid).session? l = some (ss.markRow 0)) ∧
    (¬(ss.shows sid = true ∨ ∃ st, s.story? sid = some st ∧ (st.place = .held l ∨ l ∈ st.reviewers)) →
      (s.markShown sid).session? l = some ss) := by
  have who : (ss.shows sid || (s.story? sid).any (Story.follows l)) = true ↔
      ss.shows sid = true ∨ ∃ st, s.story? sid = some st ∧ (st.place = .held l ∨ l ∈ st.reviewers) := by
    rw [Bool.or_eq_true, Option.any_eq_true]
    exact or_congr Iff.rfl (exists_congr fun st => and_congr Iff.rfl (st.follows_iff l))
  rw [State.markShown, State.session_modSessions, h, ← who]
  exact ⟨fun c => congrArg some (if_pos c), fun c => congrArg some (if_neg c)⟩

/-! ## The fit of a changed story -/

/-- A text change spoils the story's active fit and leaves every other entry as it was (R152). -/
theorem State.spoils_spoilFit (s : State) (sid : Sid) : Spoils s (s.spoilFit sid) sid := by
  simp [Spoils, State.spoilFit, FitEntry.flag, FitEntry.isFor]

end Sys2Proof.Machine
end

