-- ==== Sys2Proof/Laws/Fitting.lean ====
section
/-! SUPPORT. What an empty line of the fitter measures, and what LINE END carries for its right quad (R136, R194). -/

namespace Sys2Proof.Machine

@[simp] theorem quadBytes_natCast (n : Nat) : quadBytes n = be16 n := by simp [quadBytes]

theorem quadBytes_of_neg (q : Int) (h : q < 0) : quadBytes q = wordBytes (Config.negativeQuad q) := if_pos h

@[simp] theorem quadBytes_length (q : Int) : (quadBytes q).length = 2 := by unfold quadBytes; split <;> rfl

/-- An empty line measures what every other line does, whichever is the greater of its measure and its indent (R136, R146). -/
theorem Copies.emptyLine_escapement (c : Copies) (paraStart : Bool) (x : TextItem) :
    (c.emptyLine paraStart x).escapement = c.measure := by
  simp only [LineRecord.escapement, Copies.emptyLine, widthOf, List.map_nil, List.sum_nil]
  omega

end Sys2Proof.Machine
end

