-- ==== Sys2Proof/Laws/Memory.lean ====
section
/-! SUPPORT. The two stores the spec addresses, the blocks of the copy store and the words of the EEPROM: what a read after a
write gives, and that every write keeps the one form. -/

namespace Sys2Proof.Machine

/-! ## Blocks of the copy store (R3, R5 to R8) -/

/-- Blocks rising in number from a bound on, each below 4096 with 1 to 64 cells. -/
def BlocksFrom (n : Nat) : List Block → Prop
  | [] => True
  | x :: rest => n ≤ x.1 ∧ x.1 < 4096 ∧ x.2 ≠ [] ∧ x.2.length ≤ 64 ∧ BlocksFrom (x.1 + 1) rest

theorem BlocksFrom.mono {l : List Block} {m n : Nat} (h : BlocksFrom n l) (hm : m ≤ n) : BlocksFrom m l := by
  cases l with
  | nil => trivial
  | cons x rest => exact ⟨hm.trans h.1, h.2⟩

theorem BlocksFrom.forall_le {l : List Block} {n : Nat} (h : BlocksFrom n l) : ∀ x ∈ l, n ≤ x.1 := by
  induction l generalizing n with
  | nil => intro x hx; cases hx
  | cons y rest ih =>
    intro x hx
    rcases List.mem_cons.1 hx with rfl | hx
    · exact h.1
    · have := ih h.2.2.2.2 x hx; have := h.1; omega

theorem storeWf_iff (l : List Block) : storeWf l = true ↔ BlocksFrom 0 l := by
  have key : ∀ (l : List Block) (n : Nat), (((l.map Prod.fst).Pairwise (· < ·)) ∧
      (∀ x ∈ l, x.1 < 4096 ∧ x.2 ≠ [] ∧ x.2.length ≤ 64) ∧ ∀ x ∈ l, n ≤ x.1) ↔ BlocksFrom n l := by
    intro l
    induction l with
    | nil => intro n; simp [BlocksFrom]
    | cons y rest ih =>
      intro n
      simp only [BlocksFrom, List.map_cons, List.pairwise_cons, List.mem_cons, forall_eq_or_imp, ← ih (y.1 + 1),
        List.mem_map, forall_exists_index, and_imp, forall_apply_eq_imp_iff₂]
      constructor
      · rintro ⟨⟨h1, h2⟩, ⟨h3, h4⟩, h5, h6⟩
        exact ⟨h5, h3.1, h3.2.1, h3.2.2, h2, h4, fun x hx => h1 x hx⟩
      · rintro ⟨h5, h31, h32, h33, h2, h4, h1⟩
        exact ⟨⟨fun x hx => h1 x hx, h2⟩, ⟨⟨h31, h32, h33⟩, h4⟩, h5, fun x hx => by have := h1 x hx; omega⟩
  rw [← key l 0]
  simp [storeWf, and_assoc]

theorem blocksFrom_putBlock (b : Nat) (cells : List Cell) (hb : b < 4096) (hc : cells.length ≤ 64) (l : List Block) (n : Nat)
    (h : BlocksFrom n l) (hn : n ≤ b) : BlocksFrom n (putBlock b cells l) := by
  induction l generalizing n with
  | nil =>
    unfold putBlock; split
    · trivial
    · next he => exact ⟨hn, hb, by simpa [List.isEmpty_iff] using he, hc, trivial⟩
  | cons x rest ih =>
    obtain ⟨h1, h2, h3, h4, h5⟩ := h
    unfold putBlock; split
    · next hx => exact ⟨h1, h2, h3, h4, ih _ h5 (by omega)⟩
    · split
      · next hx =>
        split
        · exact h5.mono (by omega)
        · next he => exact ⟨hn, hb, by simpa [List.isEmpty_iff] using he, hc, hx ▸ h5⟩
      · split
        · exact ⟨h1, h2, h3, h4, h5⟩
        · next he => exact ⟨hn, hb, by simpa [List.isEmpty_iff] using he, hc, by omega, h2, h3, h4, h5⟩

/-- A block written keeps the copy store in its form. -/
theorem storeWf_putBlock (b : Nat) (cells : List Cell) (l : List Block) (hb : b < 4096) (hc : cells.length ≤ 64)
    (h : storeWf l = true) : storeWf (putBlock b cells l) = true := by
  rw [storeWf_iff] at h ⊢
  exact blocksFrom_putBlock b cells hb hc l 0 h (Nat.zero_le _)

/-- Blocks taken out keep the copy store in its form. -/
theorem storeWf_filter (p : Block → Bool) (l : List Block) (h : storeWf l = true) : storeWf (l.filter p) = true := by
  simp only [storeWf, Bool.and_eq_true, decide_eq_true_eq, List.all_eq_true] at h ⊢
  exact ⟨h.1.sublist (List.filter_sublist.map _), fun x hx => h.2 x (List.mem_filter.1 hx).1⟩

/-- Cells written over granted blocks keep the copy store in its form. -/
theorem storeWf_fillBlocks (bs : List Nat) (cells : List Cell) (l : List Block) (hb : ∀ b ∈ bs, b < 4096)
    (h : storeWf l = true) : storeWf (fillBlocks bs cells l) = true := by
  induction bs generalizing cells l with
  | nil => exact h
  | cons b bs ih =>
    exact ih _ _ (fun x hx => hb x (List.mem_cons_of_mem _ hx))
      (storeWf_putBlock b _ l (hb b List.mem_cons_self) (List.length_take_le _ _) h)

/-- The blocks a request grants are numbered below 4096. -/
theorem lt_of_mem_lowestFree (n : Nat) (l : List Block) (b : Nat) (h : b ∈ lowestFree n l) : b < 4096 := by
  have := (List.mem_filter.1 (List.mem_of_mem_take h)).1
  simpa using this

theorem blockCells_nil_of_lt (b : Nat) (l : List Block) (h : ∀ x ∈ l, b < x.1) : blockCells l b = [] := by
  have : (l.find? fun x => x.1 == b) = none := by
    rw [List.find?_eq_none]; intro x hx; have := h x hx; simp; omega
  simp [blockCells, this]

/-- The cells of the block just written. -/
theorem blockCells_putBlock (b : Nat) (cells : List Cell) (l : List Block) (h : storeWf l = true) :
    blockCells (putBlock b cells l) b = cells := by
  rw [storeWf_iff] at h
  generalize 0 = n at h
  induction l generalizing n with
  | nil => unfold putBlock; split <;> simp_all [blockCells, List.isEmpty_iff]
  | cons x rest ih =>
    have hr := h.2.2.2.2
    have hge := BlocksFrom.forall_le hr
    unfold putBlock; split
    · next hx => refine Eq.trans ?_ (ih _ hr); simp [blockCells, show x.1 ≠ b by omega]
    · split
      · next hx =>
        split
        · next he => rw [List.isEmpty_iff.1 he]; exact blockCells_nil_of_lt b rest fun y hy => by have := hge y hy; omega
        · simp [blockCells]
      · split
        · next hx hb he =>
          rw [List.isEmpty_iff.1 he]
          refine blockCells_nil_of_lt b _ fun y hy => ?_
          rcases List.mem_cons.1 hy with rfl | hy
          · omega
          · have := hge y hy; omega
        · simp [blockCells]

/-- The cells of every other block. -/
theorem blockCells_putBlock_ne (b c : Nat) (cells : List Cell) (l : List Block) (h : c ≠ b) :
    blockCells (putBlock b cells l) c = blockCells l c := by
  induction l with
  | nil => unfold putBlock; split <;> simp [blockCells, Ne.symm h]
  | cons x rest ih =>
    unfold putBlock; split
    · simp only [blockCells, List.find?_cons] at ih ⊢; split <;> simp_all
    · split
      · next hx =>
        have : x.1 ≠ c := by omega
        split <;> simp [blockCells, this, Ne.symm h]
      · split
        · rfl
        · simp [blockCells, Ne.symm h]

/-! ## Words of the EEPROM (R195, R201) -/

/-- Words rising in number from a bound on, each below 8,192 and none the erased value. -/
def WordsFrom (n : Nat) : List (Nat × Word) → Prop
  | [] => True
  | x :: rest => n ≤ x.1 ∧ x.1 < 8192 ∧ x.2 ≠ 0xFFFF ∧ WordsFrom (x.1 + 1) rest

theorem WordsFrom.mono {l : List (Nat × Word)} {m n : Nat} (h : WordsFrom n l) (hm : m ≤ n) : WordsFrom m l := by
  cases l with
  | nil => trivial
  | cons x rest => exact ⟨hm.trans h.1, h.2⟩

theorem WordsFrom.forall_le {l : List (Nat × Word)} {n : Nat} (h : WordsFrom n l) : ∀ x ∈ l, n ≤ x.1 := by
  induction l generalizing n with
  | nil => intro x hx; cases hx
  | cons y rest ih =>
    intro x hx
    rcases List.mem_cons.1 hx with rfl | hx
    · exact h.1
    · have := ih h.2.2.2 x hx; have := h.1; omega

theorem eepromWf_iff (l : List (Nat × Word)) : eepromWf l = true ↔ WordsFrom 0 l := by
  have key : ∀ (l : List (Nat × Word)) (n : Nat), (((l.map Prod.fst).Pairwise (· < ·)) ∧
      (∀ x ∈ l, x.1 < 8192 ∧ x.2 ≠ 0xFFFF) ∧ ∀ x ∈ l, n ≤ x.1) ↔ WordsFrom n l := by
    intro l
    induction l with
    | nil => intro n; simp [WordsFrom]
    | cons y rest ih =>
      intro n
      simp only [WordsFrom, List.map_cons, List.pairwise_cons, List.mem_cons, forall_eq_or_imp, ← ih (y.1 + 1),
        List.mem_map, forall_exists_index, and_imp, forall_apply_eq_imp_iff₂]
      constructor
      · rintro ⟨⟨h1, h2⟩, ⟨h3, h4⟩, h5, h6⟩
        exact ⟨h5, h3.1, h3.2, h2, h4, fun x hx => h1 x hx⟩
      · rintro ⟨h5, h31, h32, h2, h4, h1⟩
        exact ⟨⟨fun x hx => h1 x hx, h2⟩, ⟨⟨h31, h32⟩, h4⟩, h5, fun x hx => by have := h1 x hx; omega⟩
  rw [← key l 0]
  simp [eepromWf]

theorem wordsFrom_putWord (a : Nat) (w : Word) (ha : a < 8192) (l : List (Nat × Word)) (n : Nat) (h : WordsFrom n l)
    (hn : n ≤ a) : WordsFrom n (putWord a w l) := by
  induction l generalizing n with
  | nil =>
    unfold putWord; split
    · trivial
    · next he => exact ⟨hn, ha, he, trivial⟩
  | cons x rest ih =>
    obtain ⟨h1, h2, h3, h5⟩ := h
    unfold putWord; split
    · next hx => exact ⟨h1, h2, h3, ih _ h5 (by omega)⟩
    · split
      · next hx =>
        split
        · exact h5.mono (by omega)
        · next he => exact ⟨hn, ha, he, hx ▸ h5⟩
      · split
        · exact ⟨h1, h2, h3, h5⟩
        · next he => exact ⟨hn, ha, he, by omega, h2, h3, h5⟩

/-- A word written keeps the EEPROM in its form. -/
theorem eepromWf_putWord (a : Nat) (w : Word) (e : List (Nat × Word)) (ha : a < 8192) (h : eepromWf e = true) :
    eepromWf (putWord a w e) = true := by
  rw [eepromWf_iff] at h ⊢
  exact wordsFrom_putWord a w ha e 0 h (Nat.zero_le _)

/-- Words written in order keep the EEPROM in its form. -/
theorem eepromWf_putWords (a : Nat) (ws : List Word) (e : List (Nat × Word)) (ha : a + ws.length ≤ 8192)
    (h : eepromWf e = true) : eepromWf (putWords a ws e) = true := by
  induction ws generalizing a e with
  | nil => exact h
  | cons w ws ih =>
    simp only [List.length_cons] at ha
    exact ih _ _ (by omega) (eepromWf_putWord a w e (by omega) h)

theorem eepromWord_erased_of_lt (a : Nat) (l : List (Nat × Word)) (h : ∀ x ∈ l, a < x.1) : eepromWord l a = 0xFFFF := by
  have : (l.find? fun x => x.1 == a) = none := by
    rw [List.find?_eq_none]; intro x hx; have := h x hx; simp; omega
  simp [eepromWord, this]

/-- The word just written. -/
theorem eepromWord_putWord (a : Nat) (w : Word) (e : List (Nat × Word)) (h : eepromWf e = true) :
    eepromWord (putWord a w e) a = w := by
  rw [eepromWf_iff] at h
  generalize 0 = n at h
  induction e generalizing n with
  | nil => unfold putWord; split <;> simp_all [eepromWord]
  | cons x rest ih =>
    have hr := h.2.2.2
    have hge := WordsFrom.forall_le hr
    unfold putWord; split
    · next hx => refine Eq.trans ?_ (ih _ hr); simp [eepromWord, show x.1 ≠ a by omega]
    · split
      · next hx =>
        split
        · next he => rw [he]; exact eepromWord_erased_of_lt a rest fun y hy => by have := hge y hy; omega
        · simp [eepromWord]
      · split
        · next hx hb he =>
          rw [he]
          refine eepromWord_erased_of_lt a _ fun y hy => ?_
          rcases List.mem_cons.1 hy with rfl | hy
          · omega
          · have := hge y hy; omega
        · simp [eepromWord]

/-- Every other word. -/
theorem eepromWord_putWord_ne (a c : Nat) (w : Word) (e : List (Nat × Word)) (h : c ≠ a) :
    eepromWord (putWord a w e) c = eepromWord e c := by
  induction e with
  | nil => unfold putWord; split <;> simp [eepromWord, Ne.symm h]
  | cons x rest ih =>
    unfold putWord; split
    · simp only [eepromWord, List.find?_cons] at ih ⊢; split <;> simp_all
    · split
      · next hx =>
        have : x.1 ≠ c := by omega
        split <;> simp [eepromWord, this, Ne.symm h]
      · split
        · rfl
        · simp [eepromWord, Ne.symm h]

/-- The words read after words were written: those written within their range, the old ones outside it. -/
theorem eepromWord_putWords (a c : Nat) (ws : List Word) (e : List (Nat × Word)) (ha : a + ws.length ≤ 8192)
    (h : eepromWf e = true) :
    eepromWord (putWords a ws e) c = if a ≤ c ∧ c < a + ws.length then ws.getD (c - a) 0 else eepromWord e c := by
  induction ws generalizing a e with
  | nil => rw [if_neg (by simp only [List.length_nil]; omega), putWords]
  | cons w ws ih =>
    simp only [List.length_cons] at ha
    rw [putWords, ih _ _ (by omega) (eepromWf_putWord a w e (by omega) h)]
    by_cases hc : c = a
    · subst hc; simp [eepromWord_putWord c w e h]
    · rw [eepromWord_putWord_ne a c w e hc]
      by_cases h1 : a + 1 ≤ c ∧ c < a + 1 + ws.length
      · rw [if_pos h1, if_pos (by simp only [List.length_cons]; omega)]
        obtain ⟨k, rfl⟩ : ∃ k, c = a + 1 + k := ⟨c - (a + 1), by omega⟩
        simp [show a + 1 + k - a = k + 1 by omega]
      · rw [if_neg h1, if_neg (by simp only [List.length_cons]; omega)]

/-! ## Reset has both forms -/

theorem storeWf_reset : storeWf State.reset.store = true := rfl

theorem eepromWf_reset : eepromWf State.reset.eeprom = true := rfl

end Sys2Proof.Machine
end

