-- ==== Sys2Proof/Laws/Orders.lean ====
section
/-! SUPPORT. What taking an order does, once for all orders: a byte waiting is taken, the order is answered, and nothing else
changes (R178, R179). -/

namespace Sys2Proof.Machine

/-! ## The waiting byte changes the host channel only -/

@[simp] theorem State.takeWaiting_store (s : State) : s.takeWaiting.store = s.store := by
  unfold State.takeWaiting; split
  · rfl
  · split <;> rfl
@[simp] theorem State.takeWaiting_dir (s : State) : s.takeWaiting.dir = s.dir := by
  unfold State.takeWaiting; split
  · rfl
  · split <;> rfl
@[simp] theorem State.takeWaiting_baskets (s : State) : s.takeWaiting.baskets = s.baskets := by
  unfold State.takeWaiting; split
  · rfl
  · split <;> rfl
@[simp] theorem State.takeWaiting_profiles (s : State) : s.takeWaiting.profiles = s.profiles := by
  unfold State.takeWaiting; split
  · rfl
  · split <;> rfl
@[simp] theorem State.takeWaiting_lines (s : State) : s.takeWaiting.lines = s.lines := by
  unfold State.takeWaiting; split
  · rfl
  · split <;> rfl
@[simp] theorem State.takeWaiting_term (s : State) : s.takeWaiting.term = s.term := by
  unfold State.takeWaiting; split
  · rfl
  · split <;> rfl
@[simp] theorem State.takeWaiting_formats (s : State) : s.takeWaiting.formats = s.formats := by
  unfold State.takeWaiting; split
  · rfl
  · split <;> rfl
@[simp] theorem State.takeWaiting_widths (s : State) : s.takeWaiting.widths = s.widths := by
  unfold State.takeWaiting; split
  · rfl
  · split <;> rfl
@[simp] theorem State.takeWaiting_fitQueue (s : State) : s.takeWaiting.fitQueue = s.fitQueue := by
  unfold State.takeWaiting; split
  · rfl
  · split <;> rfl
@[simp] theorem State.takeWaiting_chanA (s : State) : s.takeWaiting.chanA = s.chanA := by
  unfold State.takeWaiting; split
  · rfl
  · split <;> rfl
@[simp] theorem State.takeWaiting_chanB (s : State) : s.takeWaiting.chanB = s.chanB := by
  unfold State.takeWaiting; split
  · rfl
  · split <;> rfl
@[simp] theorem State.takeWaiting_loader (s : State) : s.takeWaiting.loader = s.loader := by
  unfold State.takeWaiting; split
  · rfl
  · split <;> rfl
@[simp] theorem State.takeWaiting_eeprom (s : State) : s.takeWaiting.eeprom = s.eeprom := by
  unfold State.takeWaiting; split
  · rfl
  · split <;> rfl
@[simp] theorem State.takeWaiting_pending (s : State) : s.takeWaiting.pending = s.pending := by
  unfold State.takeWaiting; split
  · rfl
  · split <;> rfl
@[simp] theorem State.takeWaiting_freeCount (s : State) : s.takeWaiting.freeCount = s.freeCount := by
  unfold State.takeWaiting; split
  · rfl
  · split <;> rfl

@[simp] theorem State.takeWaiting_chan (s : State) (ch : Chan) : s.takeWaiting.chan ch = s.chan ch := by
  cases ch <;> simp [State.chan]

@[simp] theorem HostChan.offer_reply (n : Notice) (h : HostChan) : (h.offer n).reply = h.reply := by
  unfold HostChan.offer; split
  · rfl
  · split <;> rfl
@[simp] theorem HostChan.offer_active (n : Notice) (h : HostChan) : (h.offer n).active = h.active := by
  unfold HostChan.offer; split
  · rfl
  · split <;> rfl
@[simp] theorem HostChan.offer_toHost (n : Notice) (h : HostChan) : (h.offer n).toHost = h.toHost := by
  unfold HostChan.offer; split
  · rfl
  · split <;> rfl
@[simp] theorem HostChan.offer_out (n : Notice) (h : HostChan) : (h.offer n).out = h.out := by
  unfold HostChan.offer; split
  · rfl
  · split <;> rfl
@[simp] theorem HostChan.offer_waiting (n : Notice) (h : HostChan) : (h.offer n).waiting = h.waiting := by
  unfold HostChan.offer; split
  · rfl
  · split <;> rfl
@[simp] theorem HostChan.offer_bufA (n : Notice) (h : HostChan) : (h.offer n).bufA = h.bufA := by
  unfold HostChan.offer; split
  · rfl
  · split <;> rfl
@[simp] theorem HostChan.offer_bufB (n : Notice) (h : HostChan) : (h.offer n).bufB = h.bufB := by
  unfold HostChan.offer; split
  · rfl
  · split <;> rfl
@[simp] theorem HostChan.offer_badFrames (n : Notice) (h : HostChan) : (h.offer n).badFrames = h.badFrames := by
  unfold HostChan.offer; split
  · rfl
  · split <;> rfl

/-- The overflow flag is set by an offer, never cleared (R186). -/
theorem HostChan.offer_overflow (n : Notice) (h : HostChan) (ho : h.overflow = true) : (h.offer n).overflow = true := by
  unfold HostChan.offer; split
  · exact ho
  · split
    · exact ho
    · rfl

@[simp] theorem HostChan.setBuf_reply (h : HostChan) (isB : Bool) (x : Buf) : (h.setBuf isB x).reply = h.reply := by
  cases isB <;> rfl
@[simp] theorem HostChan.setBuf_active (h : HostChan) (isB : Bool) (x : Buf) : (h.setBuf isB x).active = h.active := by
  cases isB <;> rfl
@[simp] theorem HostChan.setBuf_notices (h : HostChan) (isB : Bool) (x : Buf) : (h.setBuf isB x).notices = h.notices := by
  cases isB <;> rfl
@[simp] theorem HostChan.setBuf_out (h : HostChan) (isB : Bool) (x : Buf) : (h.setBuf isB x).out = h.out := by
  cases isB <;> rfl
@[simp] theorem HostChan.setBuf_overflow (h : HostChan) (isB : Bool) (x : Buf) : (h.setBuf isB x).overflow = h.overflow := by
  cases isB <;> rfl
@[simp] theorem HostChan.setBuf_badFrames (h : HostChan) (isB : Bool) (x : Buf) : (h.setBuf isB x).badFrames = h.badFrames := by
  cases isB <;> rfl
@[simp] theorem HostChan.setBuf_toHost (h : HostChan) (isB : Bool) (x : Buf) : (h.setBuf isB x).toHost = h.toHost := by
  cases isB <;> rfl

@[simp] theorem HostChan.releaseBuf_notices (h : HostChan) : h.releaseBuf.notices = h.notices := by
  unfold HostChan.releaseBuf; split <;> simp
@[simp] theorem HostChan.releaseBuf_out (h : HostChan) : h.releaseBuf.out = h.out := by
  unfold HostChan.releaseBuf; split <;> simp
@[simp] theorem HostChan.releaseBuf_overflow (h : HostChan) : h.releaseBuf.overflow = h.overflow := by
  unfold HostChan.releaseBuf; split <;> simp
@[simp] theorem HostChan.releaseBuf_badFrames (h : HostChan) : h.releaseBuf.badFrames = h.badFrames := by
  unfold HostChan.releaseBuf; split <;> simp
@[simp] theorem HostChan.releaseBuf_toHost (h : HostChan) : h.releaseBuf.toHost = h.toHost := by
  unfold HostChan.releaseBuf; split <;> simp

@[simp] theorem HostChan.discard_reply (isB gap : Bool) (tag : Option Byte) (h : HostChan) :
    (h.discard isB gap tag).reply = h.reply := by simp [HostChan.discard]
@[simp] theorem HostChan.discard_active (isB gap : Bool) (tag : Option Byte) (h : HostChan) :
    (h.discard isB gap tag).active = h.active := by simp [HostChan.discard]

@[simp] theorem HostChan.extend_reply (isB : Bool) (bytes : List Byte) (h : HostChan) :
    (h.extend isB bytes).reply = h.reply := by
  unfold HostChan.extend; split
  · dsimp only; split
    · simp
    · split
      · split <;> simp
      · simp
  · simp
@[simp] theorem HostChan.extend_active (isB : Bool) (bytes : List Byte) (h : HostChan) :
    (h.extend isB bytes).active = h.active := by
  unfold HostChan.extend; split
  · dsimp only; split
    · simp
    · split
      · split <;> simp
      · simp
  · simp

@[simp] theorem HostChan.takeByte_reply (b : Byte) (h : HostChan) : (h.takeByte b).reply = h.reply := by
  unfold HostChan.takeByte; split
  · simp
  · split
    · split <;> simp
    · rfl
@[simp] theorem HostChan.takeByte_active (b : Byte) (h : HostChan) : (h.takeByte b).active = h.active := by
  unfold HostChan.takeByte; split
  · simp
  · split
    · split <;> simp
    · rfl

@[simp] theorem State.takeWaiting_reply (s : State) : s.takeWaiting.host.reply = s.host.reply := by
  unfold State.takeWaiting; split
  · rfl
  · split <;> simp
@[simp] theorem State.takeWaiting_active (s : State) : s.takeWaiting.host.active = s.host.active := by
  unfold State.takeWaiting; split
  · rfl
  · split <;> simp

/-! ## An answer -/

@[simp] theorem State.answered_store (s : State) (f : Frame) (r : Res) (b : List Byte) :
    (s.answered f r b).store = s.store := by simp [State.answered]
@[simp] theorem State.answered_dir (s : State) (f : Frame) (r : Res) (b : List Byte) :
    (s.answered f r b).dir = s.dir := by simp [State.answered]
@[simp] theorem State.answered_baskets (s : State) (f : Frame) (r : Res) (b : List Byte) :
    (s.answered f r b).baskets = s.baskets := by simp [State.answered]
@[simp] theorem State.answered_profiles (s : State) (f : Frame) (r : Res) (b : List Byte) :
    (s.answered f r b).profiles = s.profiles := by simp [State.answered]
@[simp] theorem State.answered_lines (s : State) (f : Frame) (r : Res) (b : List Byte) :
    (s.answered f r b).lines = s.lines := by simp [State.answered]
@[simp] theorem State.answered_term (s : State) (f : Frame) (r : Res) (b : List Byte) :
    (s.answered f r b).term = s.term := by simp [State.answered]
@[simp] theorem State.answered_formats (s : State) (f : Frame) (r : Res) (b : List Byte) :
    (s.answered f r b).formats = s.formats := by simp [State.answered]
@[simp] theorem State.answered_widths (s : State) (f : Frame) (r : Res) (b : List Byte) :
    (s.answered f r b).widths = s.widths := by simp [State.answered]
@[simp] theorem State.answered_fitQueue (s : State) (f : Frame) (r : Res) (b : List Byte) :
    (s.answered f r b).fitQueue = s.fitQueue := by simp [State.answered]
@[simp] theorem State.answered_chanA (s : State) (f : Frame) (r : Res) (b : List Byte) :
    (s.answered f r b).chanA = s.chanA := by simp [State.answered]
@[simp] theorem State.answered_chanB (s : State) (f : Frame) (r : Res) (b : List Byte) :
    (s.answered f r b).chanB = s.chanB := by simp [State.answered]
@[simp] theorem State.answered_loader (s : State) (f : Frame) (r : Res) (b : List Byte) :
    (s.answered f r b).loader = s.loader := by simp [State.answered]
@[simp] theorem State.answered_eeprom (s : State) (f : Frame) (r : Res) (b : List Byte) :
    (s.answered f r b).eeprom = s.eeprom := by simp [State.answered]
@[simp] theorem State.answered_pending (s : State) (f : Frame) (r : Res) (b : List Byte) :
    (s.answered f r b).pending = s.pending := by simp [State.answered]
@[simp] theorem State.answered_freeCount (s : State) (f : Frame) (r : Res) (b : List Byte) :
    (s.answered f r b).freeCount = s.freeCount := by simp [State.answered]

@[simp] theorem State.answered_chan (s : State) (f : Frame) (r : Res) (b : List Byte) (ch : Chan) :
    (s.answered f r b).chan ch = s.chan ch := by cases ch <;> simp [State.chan]

@[simp] theorem State.answered_reply (s : State) (f : Frame) (r : Res) (b : List Byte) :
    (s.answered f r b).host.reply = some (replyFrame s.host.overflow f r b) := by simp [State.answered]

@[simp] theorem State.answered_active (s : State) (f : Frame) (r : Res) (b : List Byte) :
    (s.answered f r b).host.active = none := by simp [State.answered]

/-- An answer's reply is the order answered. -/
theorem Answer.reply_answered (f : Frame) (a : Answer) : (a.reply f).takeWaiting = a.state.answered f a.res a.body := rfl

/-- Taking an order that is at the front with a legal tag. -/
theorem takeOrder_front {s : State} {k : Byte} {f : Frame} (h : Front s k f) (act : List Byte → State → Answer) :
    takeOrder k act s = ended s ((act f.body s).state.answered f (act f.body s).res (act f.body s).body) := by
  have e : f.answer act s = act f.body s := if_neg h.tag
  simp only [takeOrder, takeOrderThen, h.next, h.kind, if_true, id_eq, ite_self, e, Answer.reply_answered]

/-- An order with tag 0 is refused (R179). -/
theorem takeOrder_tagZero {s : State} {k : Byte} {f : Frame} (hn : s.nextOrder = some f) (hk : f.kind = k)
    (ht : f.tag = 0) (act : List Byte → State → Answer) : takeOrder k act s = ended s (s.answered f .badArgument []) := by
  have e : f.answer act s = refused .badArgument s := if_pos ht
  simp only [takeOrder, takeOrderThen, hn, hk, if_true, id_eq, ite_self, e, Answer.reply_answered]
  rfl

/-- An order that its own rule answers `r` with the state `t` is answered so. -/
theorem takeOrder_reaches {s : State} {k : Byte} {f : Frame} (h : Front s k f) {act : List Byte → State → Answer}
    {r : Res} {body : List Byte} {t : State} (e : act f.body s = { res := r, body := body, state := t }) :
    Reaches (takeOrder k act s) (t.answered f r body) := by
  rw [takeOrder_front h, e]; exact reaches_ended _ _

/-- What an order's taking runs to, by what its own rule answers. -/
theorem takeOrder_runsTo {s : State} {k : Byte} {f : Frame} (h : Front s k f) {act : List Byte → State → Answer}
    {r : Res} {body : List Byte} {t : State} (e : act f.body s = { res := r, body := body, state := t }) {P : State → Prop}
    (hp : P (s.finish (t.answered f r body))) : RunsTo (takeOrder k act s) P := by
  rw [takeOrder_front h, e]; exact ⟨_, rfl, hp⟩

/-- Answering keeps the reply's flag true to the overflow flag. -/
theorem replied_answered {s t : State} {f : Frame} {r : Res} {body : List Byte} (b : State)
    (h : s.host.overflow = true → t.host.overflow = true) : Replied s (b.finish (t.answered f r body)) f r body :=
  ⟨t.host.overflow, by simp, h, by simp⟩

end Sys2Proof.Machine
end

