-- ==== Sys2Proof/Laws/Shape.lean ====
section
/-! SUPPORT. The shape of every command's outcome: the state as it was, or an event brought to its end. POWER_START alone
replaces the whole state. -/

namespace Sys2Proof.Machine

/-- An outcome leaves the state as it is, or ends an event of it. -/
def Shaped (s : State) (o : Host.Outcome State Fault Refusal) : Prop := o = .next s ∨ ∃ a, o = ended s a

theorem shaped_next (s : State) : Shaped s (.next s) := .inl rfl
theorem shaped_ended (s a : State) : Shaped s (ended s a) := .inr ⟨a, rfl⟩

theorem shaped_takeOrderThen (k : Byte) (act : List Byte → State → Answer) (after : State → State) (s : State) :
    Shaped s (takeOrderThen k act after s) := by
  unfold takeOrderThen; split
  · exact shaped_next s
  · split
    · exact shaped_ended s _
    · exact shaped_next s

theorem shaped_takeOrder (k : Byte) (act : List Byte → State → Answer) (s : State) : Shaped s (takeOrder k act s) :=
  shaped_takeOrderThen k act id s

theorem shaped_beginWork (k : Byte) (check : List Byte → Option Work) (s : State) : Shaped s (beginWork k check s) := by
  unfold beginWork; split
  · exact shaped_next s
  · split
    · split <;> exact shaped_ended s _
    · exact shaped_next s

theorem shaped_onLine {s : State} {f : LineNo → Host.Outcome State Fault Refusal} (line : Nat) (h : ∀ l, Shaped s (f l)) :
    Shaped s (onLine line s f) := by
  unfold onLine; split
  · exact h _
  · exact shaped_next s

theorem shaped_takeKey (line : Nat) (p : HeadKey → Bool) (act : LineNo → Session → HeadKey → State → State) (s : State) :
    Shaped s (takeKey line p act s) := by
  refine shaped_onLine line fun l => ?_
  split
  · exact shaped_next s
  · split
    · exact shaped_next s
    · split
      · exact shaped_ended s _
      · exact shaped_next s

theorem shaped_takeWireChar (line : Nat) (p : RxChar → Bool) (act : LineNo → Intake → RxChar → State → State) (s : State) :
    Shaped s (takeWireChar line p act s) := by
  refine shaped_onLine line fun l => ?_
  split
  · split
    · exact shaped_ended s _
    · exact shaped_next s
  · exact shaped_next s

theorem shaped_takeHanded (line : Nat) (k : Handed) (act : LineNo → Intake → State → State) (s : State) :
    Shaped s (takeHanded line k act s) := by
  refine shaped_onLine line fun l => ?_
  split
  · split
    · split
      · exact shaped_ended s _
      · exact shaped_next s
    · exact shaped_next s
  · exact shaped_next s

theorem shaped_statusFrame (ch : Chan) (b : Byte) (s : State) : Shaped s (statusFrame ch b s) := by
  unfold statusFrame; split
  · exact shaped_next s
  · split
    · exact shaped_ended s _
    · exact shaped_next s

/-- Every command but POWER_START leaves the state as it is, or ends an event of it. -/
theorem exec_shaped (c : Instr) (s : State) (hc : c ≠ .powerStart) : Shaped s (exec c s) := by
  cases c
  case powerStart => exact absurd rfl hc
  case status => simp only [exec, execStatus]; exact shaped_takeOrderThen _ _ _ s
  case lineRole => simp only [exec, execLineRole]; exact shaped_takeOrder _ _ s
  case lineSet => simp only [exec, execLineSet]; exact shaped_takeOrder _ _ s
  case lineReset => simp only [exec, execLineReset]; exact shaped_takeOrder _ _ s
  case lineStatus => simp only [exec, execLineStatus]; exact shaped_takeOrder _ _ s
  case lineTest => simp only [exec, execLineTest]; exact shaped_takeOrder _ _ s
  case signOn => simp only [exec, execSignOn]; exact shaped_takeOrder _ _ s
  case signOff => simp only [exec, execSignOff]; exact shaped_takeOrder _ _ s
  case terminalMessage => simp only [exec, execTerminalMessage]; exact shaped_takeOrder _ _ s
  case displayMode => simp only [exec, execDisplayMode]; exact shaped_takeOrder _ _ s
  case storyCreate => simp only [exec, execStoryCreate]; exact shaped_takeOrder _ _ s
  case storyAppend => simp only [exec, execStoryAppend]; exact shaped_takeOrder _ _ s
  case storyRead => simp only [exec, execStoryRead]; exact shaped_takeOrder _ _ s
  case storyInfo => simp only [exec, execStoryInfo]; exact shaped_takeOrder _ _ s
  case directory => simp only [exec, execDirectory]; exact shaped_takeOrder _ _ s
  case move => simp only [exec, execMove]; exact shaped_takeOrder _ _ s
  case priority => simp only [exec, execPriority]; exact shaped_takeOrder _ _ s
  case kill => simp only [exec, execKill]; exact shaped_takeOrder _ _ s
  case unkill => simp only [exec, execUnkill]; exact shaped_takeOrder _ _ s
  case purge => simp only [exec, execPurge]; exact shaped_takeOrder _ _ s
  case fit => simp only [exec, execFit]; exact shaped_takeOrder _ _ s
  case setStory => simp only [exec, execSetStory]; exact shaped_takeOrder _ _ s
  case setPage => simp only [exec, execSetPage]; exact shaped_takeOrder _ _ s
  case withdraw => simp only [exec, execWithdraw]; exact shaped_takeOrder _ _ s
  case cancel => simp only [exec, execCancel]; exact shaped_takeOrder _ _ s
  case formatLoad => simp only [exec, execFormatLoad]; exact shaped_takeOrder _ _ s
  case widthLoad => simp only [exec, execWidthLoad]; exact shaped_takeOrder _ _ s
  case basketName => simp only [exec, execBasketName]; exact shaped_takeOrder _ _ s
  case profileLoad => simp only [exec, execProfileLoad]; exact shaped_takeOrder _ _ s
  case wireAccept => simp only [exec, execWireAccept]; exact shaped_takeOrder _ _ s
  case setterParameters => simp only [exec, execSetterParameters]; exact shaped_takeOrder _ _ s
  case imageRead => simp only [exec, execImageRead]; exact shaped_beginWork _ _ s
  case imageWrite => simp only [exec, execImageWrite]; exact shaped_beginWork _ _ s
  case restart => simp only [exec, execRestart]; exact shaped_beginWork _ _ s
  case textKey line => simp only [exec, execTextKey]; exact shaped_takeKey _ _ _ s
  case unknownKey line => simp only [exec, execUnknownKey]; exact shaped_takeKey _ _ _ s
  case keyLeft line => simp only [exec, execKeyLeft, functionKey]; exact shaped_takeKey _ _ _ s
  case keyRight line => simp only [exec, execKeyRight, functionKey]; exact shaped_takeKey _ _ _ s
  case keyWordLeft line => simp only [exec, execKeyWordLeft, functionKey]; exact shaped_takeKey _ _ _ s
  case keyWordRight line => simp only [exec, execKeyWordRight, functionKey]; exact shaped_takeKey _ _ _ s
  case keyLineStart line => simp only [exec, execKeyLineStart, functionKey]; exact shaped_takeKey _ _ _ s
  case keyLineEnd line => simp only [exec, execKeyLineEnd, functionKey]; exact shaped_takeKey _ _ _ s
  case keyUp line => simp only [exec, execKeyUp, functionKey]; exact shaped_takeKey _ _ _ s
  case keyDown line => simp only [exec, execKeyDown, functionKey]; exact shaped_takeKey _ _ _ s
  case keyPageFwd line => simp only [exec, execKeyPageFwd, functionKey]; exact shaped_takeKey _ _ _ s
  case keyPageBack line => simp only [exec, execKeyPageBack, functionKey]; exact shaped_takeKey _ _ _ s
  case keyDelChar line => simp only [exec, execKeyDelChar, functionKey]; exact shaped_takeKey _ _ _ s
  case keyDelWord line => simp only [exec, execKeyDelWord, functionKey]; exact shaped_takeKey _ _ _ s
  case keyInsertToggle line => simp only [exec, execKeyInsertToggle, functionKey]; exact shaped_takeKey _ _ _ s
  case keyMark line => simp only [exec, execKeyMark, functionKey]; exact shaped_takeKey _ _ _ s
  case keyNew line => simp only [exec, execKeyNew, functionKey]; exact shaped_takeKey _ _ _ s
  case keyFetch line => simp only [exec, execKeyFetch, functionKey]; exact shaped_takeKey _ _ _ s
  case keyReview line => simp only [exec, execKeyReview, functionKey]; exact shaped_takeKey _ _ _ s
  case keyRelease line => simp only [exec, execKeyRelease, functionKey]; exact shaped_takeKey _ _ _ s
  case keySend line => simp only [exec, execKeySend, functionKey]; exact shaped_takeKey _ _ _ s
  case keyKill line => simp only [exec, execKeyKill, functionKey]; exact shaped_takeKey _ _ _ s
  case keySet line => simp only [exec, execKeySet, functionKey]; exact shaped_takeKey _ _ _ s
  case keyFit line => simp only [exec, execKeyFit, functionKey]; exact shaped_takeKey _ _ _ s
  case keyPriority line => simp only [exec, execKeyPriority, functionKey]; exact shaped_takeKey _ _ _ s
  case keyNextBasket line => simp only [exec, execKeyNextBasket, functionKey]; exact shaped_takeKey _ _ _ s
  case keyPrevBasket line => simp only [exec, execKeyPrevBasket, functionKey]; exact shaped_takeKey _ _ _ s
  case keyAck line => simp only [exec, execKeyAck]; exact shaped_takeKey _ _ _ s
  case keyOff line => simp only [exec, execKeyOff]; exact shaped_takeKey _ _ _ s
  case wireStartByte line => simp only [exec, execWireStartByte]; exact shaped_takeWireChar _ _ _ s
  case wireEndByte line => simp only [exec, execWireEndByte]; exact shaped_takeWireChar _ _ _ s
  case intakeCharacter line => simp only [exec, execIntakeCharacter]; exact shaped_takeWireChar _ _ _ s
  case intakeBreak line => simp only [exec, execIntakeBreak]; exact shaped_takeHanded _ _ _ s
  case intakeIdle line => simp only [exec, execIntakeIdle]; exact shaped_takeHanded _ _ _ s
  case ready ch => simp only [exec, execReady]; exact shaped_statusFrame _ _ s
  case notReady ch => simp only [exec, execNotReady]; exact shaped_statusFrame _ _ s
  case fault ch => simp only [exec, execFault]; exact shaped_statusFrame _ _ s
  case imageLoadDone => simp only [exec, execImageLoadDone]; split <;> first | with_reducible exact shaped_ended s _ | with_reducible exact shaped_next s
  case inboundByte b => simp only [exec, execInboundByte]; split <;> first | with_reducible exact shaped_ended s _ | with_reducible exact shaped_next s
  case gapExpiry => simp only [exec, execGapExpiry]; split <;> first | with_reducible exact shaped_ended s _ | with_reducible exact shaped_next s
  case outboundAck =>
    simp only [exec, execOutboundAck]; split
    · split <;> exact shaped_ended s _
    · exact shaped_next s
  case directionChange => simp only [exec, execDirectionChange]; exact shaped_ended s _
  case unknownOrder =>
    simp only [exec, execUnknownOrder]; split
    · exact shaped_next s
    · split <;> first | with_reducible exact shaped_ended s _ | with_reducible exact shaped_next s
  case imageReadDone => simp only [exec, execImageReadDone]; split <;> first | with_reducible exact shaped_ended s _ | with_reducible exact shaped_next s
  case imageWriteDone => simp only [exec, execImageWriteDone]; split <;> first | with_reducible exact shaped_ended s _ | with_reducible exact shaped_next s
  case restartEvent => simp only [exec, execRestartEvent]; split <;> first | with_reducible exact shaped_ended s _ | with_reducible exact shaped_next s
  case characterReceived line d p x =>
    simp only [exec, execCharacterReceived]
    exact shaped_onLine line fun l => by split <;> first | with_reducible exact shaped_ended s _ | with_reducible exact shaped_next s
  case breakDetected line =>
    simp only [exec, execBreakDetected]
    exact shaped_onLine line fun l => by split <;> first | with_reducible exact shaped_ended s _ | with_reducible exact shaped_next s
  case idleTimerExpiry line =>
    simp only [exec, execIdleTimerExpiry]
    refine shaped_onLine line fun l => ?_
    split
    · exact shaped_next s
    · split <;> first | with_reducible exact shaped_ended s _ | with_reducible exact shaped_next s
  case txFrameEnd line =>
    simp only [exec, execTxFrameEnd]
    exact shaped_onLine line fun l => by split <;> first | with_reducible exact shaped_ended s _ | with_reducible exact shaped_next s
  case blankTimerExpiry line =>
    simp only [exec, execBlankTimerExpiry]
    refine shaped_onLine line fun l => ?_
    split
    · exact shaped_next s
    · split <;> first | with_reducible exact shaped_ended s _ | with_reducible exact shaped_next s
  case blinkTimerExpiry line =>
    simp only [exec, execBlinkTimerExpiry]
    refine shaped_onLine line fun l => ?_
    split
    · exact shaped_next s
    · split <;> first | with_reducible exact shaped_ended s _ | with_reducible exact shaped_next s
  case dwellExpiry ch =>
    simp only [exec, execDwellExpiry]; split
    · split <;> first | with_reducible exact shaped_ended s _ | with_reducible exact shaped_next s
    · exact shaped_next s
  case stagingDone ch =>
    simp only [exec, execStagingDone]; split
    · split <;> first | with_reducible exact shaped_ended s _ | with_reducible exact shaped_next s
    · exact shaped_next s
  case stallTimerExpiry ch => simp only [exec, execStallTimerExpiry]; split <;> first | with_reducible exact shaped_ended s _ | with_reducible exact shaped_next s
  case fitComplete =>
    simp only [exec, execFitComplete]; split
    · split <;> exact shaped_ended s _
    · exact shaped_next s
  case lineSampledMarking line =>
    simp only [exec, execLineSampledMarking]
    exact shaped_onLine line fun l => by split <;> first | with_reducible exact shaped_ended s _ | with_reducible exact shaped_next s
  case startBitSampled line =>
    simp only [exec, execStartBitSampled]
    exact shaped_onLine line fun l => by split <;> first | with_reducible exact shaped_ended s _ | with_reducible exact shaped_next s
  case falseStart line =>
    simp only [exec, execFalseStart]
    exact shaped_onLine line fun l => by split <;> first | with_reducible exact shaped_ended s _ | with_reducible exact shaped_next s

end Sys2Proof.Machine
end

