-- ==== Sys2Proof/Laws/Quiet.lean ====
section
/-! SUPPORT. What the shared operations never touch: the settings, the EEPROM and image state, the commands waiting, the
baskets' names, and every line's role and receiver. One lemma for each operation says so once. -/

namespace Sys2Proof.Machine

/-- Between two states no setting, no role and no receiver changes, nor the EEPROM, the image state, the commands waiting or the
count of free values. -/
structure Quiet (s t : State) : Prop where
  settings : SameSettings s t
  lines : SameLines s t
  free : t.freeCount = s.freeCount

namespace Quiet

theorem refl (s : State) : Quiet s s :=
  ⟨⟨rfl, rfl, rfl, rfl, rfl, rfl, rfl, fun _ => rfl, fun _ => rfl⟩, ⟨fun _ => rfl, fun _ => rfl⟩, rfl⟩

theorem trans {s t u : State} (a : Quiet s t) (b : Quiet t u) : Quiet s u :=
  ⟨⟨b.settings.profiles.trans a.settings.profiles, b.settings.term.trans a.settings.term,
      b.settings.formats.trans a.settings.formats, b.settings.widths.trans a.settings.widths,
      b.settings.eeprom.trans a.settings.eeprom, b.settings.loader.trans a.settings.loader,
      b.settings.pending.trans a.settings.pending, fun x => (b.settings.names x).trans (a.settings.names x),
      fun x => (b.settings.params x).trans (a.settings.params x)⟩,
    ⟨fun x => (b.lines.roles x).trans (a.lines.roles x), fun x => (b.lines.receivers x).trans (a.lines.receivers x)⟩,
    b.free.trans a.free⟩

/-- A change of the store, the directory, the fit queue or the host channel alone. -/
theorem parts (s : State) (store : List Block) (dir : Vector Rec 512) (q : List FitEntry) (h : HostChan) :
    Quiet s { s with store := store, dir := dir, fitQueue := q, host := h } :=
  ⟨⟨rfl, rfl, rfl, rfl, rfl, rfl, rfl, fun _ => rfl, fun ch => by cases ch <;> rfl⟩, ⟨fun _ => rfl, fun _ => rfl⟩, rfl⟩

/-- A fold of an operation that is quiet at every element. -/
theorem foldl {α : Type} (f : State → α → State) (hf : ∀ s x, Quiet s (f s x)) (l : List α) (s : State) :
    Quiet s (l.foldl f s) := by
  induction l generalizing s with
  | nil => exact refl s
  | cons x xs ih => exact (hf s x).trans (ih _)

end Quiet

/-! ## Single updates -/

theorem State.quiet_setRec (s : State) (sid : Sid) (r : Rec) : Quiet s (s.setRec sid r) :=
  Quiet.parts s s.store (s.dir.set sid r) s.fitQueue s.host

theorem State.quiet_modStory (s : State) (sid : Sid) (f : Story → Story) : Quiet s (s.modStory sid f) := s.quiet_setRec sid _

theorem State.quiet_createStory (s : State) (sid : Sid) (st : Story) : Quiet s (s.createStory sid st) := s.quiet_setRec sid _

theorem State.quiet_offer (s : State) (n : Notice) : Quiet s (s.offer n) :=
  Quiet.parts s s.store s.dir s.fitQueue (s.host.offer n)

theorem State.quiet_setStore (s : State) (x : List Block) : Quiet s (s.setStore x) :=
  Quiet.parts s x s.dir s.fitQueue s.host

theorem State.quiet_setChain (s : State) (sid : Sid) (c : List Nat) : Quiet s (s.setChain sid c) := s.quiet_modStory sid _

theorem State.quiet_setStories (s : State) (b : BasketNo) (l : List Sid) : Quiet s (s.setStories b l) :=
  ⟨⟨rfl, rfl, rfl, rfl, rfl, rfl, rfl, fun c => s.name_setStories b c l, fun ch => by cases ch <;> rfl⟩,
    ⟨fun _ => rfl, fun _ => rfl⟩, rfl⟩

/-- A line replaced by one of the same role and receiver. -/
theorem State.quiet_setLine (s : State) (l : LineNo) (r : LineRec) (hr : r.owner.role = s.lines[l].owner.role)
    (hx : r.receiver = s.lines[l].receiver) : Quiet s (s.setLine l r) := by
  refine ⟨⟨rfl, rfl, rfl, rfl, rfl, rfl, rfl, fun _ => rfl, fun ch => by cases ch <;> rfl⟩, ⟨fun m => ?_, fun m => ?_⟩, rfl⟩ <;>
    by_cases h : m = l
  · subst h; rw [State.line_setLine]; exact hr
  · rw [State.line_setLine_ne s r h]
  · subst h; rw [State.line_setLine]; exact hx
  · rw [State.line_setLine_ne s r h]

theorem State.quiet_modSession (s : State) (l : LineNo) (f : Session → Session) : Quiet s (s.modSession l f) :=
  s.quiet_setLine l _ (by simp) rfl

/-- A session put on a line that has one. -/
theorem State.quiet_setSession (s : State) (l : LineNo) (ss : Session) (h : s.lines[l].owner.role = .terminal) :
    Quiet s (s.setSession l ss) := s.quiet_setLine l _ h.symm rfl

/-- An intake put on a line that has one. -/
theorem State.quiet_setIntake (s : State) (l : LineNo) (ik : Intake) (h : s.lines[l].owner.role = .wire) :
    Quiet s (s.setIntake l ik) := s.quiet_setLine l _ h.symm rfl

theorem State.quiet_modSessions (s : State) (f : LineNo → Session → Session) : Quiet s (s.modSessions f) := by
  refine ⟨⟨State.modSessions_profiles s f, State.modSessions_term s f, State.modSessions_formats s f,
    State.modSessions_widths s f, State.modSessions_eeprom s f, State.modSessions_loader s f, State.modSessions_pending s f,
    fun b => congrArg (fun v : Vector Basket 24 => v[b].name) (State.modSessions_baskets s f), fun ch => ?_⟩,
    ⟨fun m => ?_, fun m => ?_⟩, State.modSessions_freeCount s f⟩
  · cases ch
    · exact congrArg Channel.params (State.modSessions_chanA s f)
    · exact congrArg Channel.params (State.modSessions_chanB s f)
  · rw [State.line_modSessions]; exact Owner.role_mapSession _ _
  · rw [State.line_modSessions]; rfl

/-- A channel changed in all but its parameters. -/
theorem State.quiet_setChan (s : State) (ch : Chan) (c : Channel) (h : c.params = (s.chan ch).params) :
    Quiet s (s.setChan ch c) := by
  refine ⟨⟨?_, ?_, ?_, ?_, ?_, ?_, ?_, fun _ => ?_, fun x => ?_⟩, ⟨fun m => ?_, fun m => ?_⟩, ?_⟩ <;> try simp
  by_cases hx : x = ch
  · subst hx; rw [State.chan_setChan]; exact h
  · rw [State.chan_setChan_ne s c hx]

theorem State.quiet_modChan (s : State) (ch : Chan) (f : Channel → Channel) (h : ∀ c, (f c).params = c.params) :
    Quiet s (s.modChan ch f) := s.quiet_setChan ch _ (h _)

/-- The same after a first operation. -/
theorem Quiet.thenModChan {s t : State} (a : Quiet s t) (ch : Chan) (f : Channel → Channel)
    (h : ∀ c, (f c).params = c.params) : Quiet s (t.modChan ch f) := a.trans (t.quiet_modChan ch f h)

/-! ## The fit queue -/

theorem State.quiet_takeFit (s : State) : Quiet s s.takeFit := by
  unfold State.takeFit; split
  · exact Quiet.refl s
  · split
    · exact Quiet.parts s s.store s.dir _ s.host
    · exact Quiet.refl s

theorem State.quiet_dropFit (s : State) (sid : Sid) : Quiet s (s.dropFit sid) := by
  unfold State.dropFit; split
  · exact (Quiet.parts s s.store s.dir _ s.host).trans (State.quiet_takeFit _)
  · exact Quiet.refl s

theorem State.quiet_spoilFit (s : State) (sid : Sid) : Quiet s (s.spoilFit sid) := Quiet.parts s s.store s.dir _ s.host

theorem State.quiet_requestFit (s t : State) (sid : Sid) (h : s.requestFit sid = some t) : Quiet s t := by
  unfold State.requestFit at h
  split at h
  · cases h; exact Quiet.parts s s.store s.dir _ s.host
  · split at h
    · cases h; exact (Quiet.parts s s.store s.dir _ s.host).trans (State.quiet_takeFit _)
    · cases h

/-! ## Baskets -/

theorem State.quiet_placeIn (s : State) (b : BasketNo) (sid : Sid) : Quiet s (s.placeIn b sid) := by
  unfold State.placeIn; split <;> exact s.quiet_setStories _ _

theorem State.quiet_raiseAlert (s : State) (b : BasketNo) (sid : Sid) (m : Option LineNo) : Quiet s (s.raiseAlert b sid m) := by
  unfold State.raiseAlert; split
  · exact Quiet.refl s
  · exact s.quiet_modSessions _

theorem State.quiet_markBasket (s : State) (b : BasketNo) (i : Nat) : Quiet s (s.markBasket b i) := s.quiet_modSessions _

theorem State.quiet_enterBasket (s : State) (b : BasketNo) (sid : Sid) (m : Option LineNo) : Quiet s (s.enterBasket b sid m) := by
  unfold State.enterBasket
  exact ((((s.quiet_modStory sid _).trans (State.quiet_placeIn _ b sid)).trans (State.quiet_offer _ _)).trans
    (State.quiet_raiseAlert _ b sid m)).trans (State.quiet_markBasket _ b _)

theorem State.quiet_enterSpike (s : State) (sid : Sid) : Quiet s (s.enterSpike sid) := by
  unfold State.enterSpike
  exact ((s.quiet_modStory sid _).trans (State.quiet_placeIn _ _ sid)).trans (State.quiet_markBasket _ _ _)

theorem State.quiet_leaveBasket (s : State) (b : BasketNo) (sid : Sid) : Quiet s (s.leaveBasket b sid) := by
  unfold State.leaveBasket
  exact ((s.quiet_setStories b _).trans (State.quiet_modSessions _ _)).trans (State.quiet_markBasket _ _ _)

theorem State.quiet_exitBasket (s : State) (sid : Sid) : Quiet s (s.exitBasket sid) := by
  unfold State.exitBasket; split
  · exact s.quiet_leaveBasket _ sid
  · exact Quiet.refl s

theorem State.quiet_dropReviewers (s : State) (sid : Sid) (m : List Byte) : Quiet s (s.dropReviewers sid m) := by
  unfold State.dropReviewers
  exact (s.quiet_modStory sid _).trans (State.quiet_modSessions _ _)

theorem State.quiet_unreview (s : State) (l : LineNo) (sid : Sid) : Quiet s (s.unreview l sid) := s.quiet_modStory sid _

theorem State.quiet_freeStory (s : State) (sid : Sid) : Quiet s (s.freeStory sid) := by
  unfold State.freeStory
  exact (((Quiet.parts s _ s.dir s.fitQueue s.host).trans (State.quiet_exitBasket _ sid)).trans
    (State.quiet_setRec _ sid _)).trans (State.quiet_dropFit _ sid)

theorem State.quiet_purgeStory (s : State) (sid : Sid) : Quiet s (s.purgeStory sid) := by
  unfold State.purgeStory
  exact (s.quiet_freeStory sid).trans (State.quiet_offer _ _)

theorem State.quiet_spikeStory (s : State) (sid : Sid) : Quiet s (s.spikeStory sid) := by
  unfold State.spikeStory
  exact (((s.quiet_exitBasket sid).trans (State.quiet_dropReviewers _ sid _)).trans (State.quiet_enterSpike _ sid)).trans
    (State.quiet_dropFit _ sid)

/-! ## The store -/

theorem quiet_reclaimSpike (cls : AllocClass) (n fuel : Nat) (s : State) : Quiet s (reclaimSpike cls n fuel s) := by
  induction fuel generalizing s with
  | zero => exact Quiet.refl s
  | succ fuel ih =>
    unfold reclaimSpike; split
    · exact Quiet.refl s
    · split
      · exact Quiet.refl s
      · exact (s.quiet_purgeStory _).trans (ih _)

theorem quiet_reclaimWire (n : Nat) (l : List Sid) (s : State) : Quiet s (reclaimWire n l s) := by
  induction l generalizing s with
  | nil => exact Quiet.refl s
  | cons x xs ih =>
    unfold reclaimWire; split
    · exact Quiet.refl s
    · exact (s.quiet_purgeStory x).trans (ih _)

theorem State.quiet_reclaim (s : State) (cls : AllocClass) (n : Nat) : Quiet s (s.reclaim cls n) := by
  have h := quiet_reclaimSpike cls n (s.stories spikeBasket).length s
  unfold State.reclaim
  cases cls
  · exact h
  · exact h.trans (quiet_reclaimWire _ _ _)
  · exact h

theorem State.quiet_storeLow (s : State) (n : Nat) : Quiet s (s.storeLow n) := by
  unfold State.storeLow; split
  · exact s.quiet_offer _
  · exact Quiet.refl s

theorem State.quiet_allocate (s : State) (cls : AllocClass) (sid : Sid) (n : Nat) : Quiet s (s.allocate cls sid n).2 := by
  have h : Quiet s (if s.meets cls n then s else s.reclaim cls n) := by
    split
    · exact Quiet.refl s
    · exact s.quiet_reclaim cls n
  unfold State.allocate
  generalize (if s.meets cls n then s else s.reclaim cls n) = t at h ⊢
  split
  · exact Quiet.refl s
  · show Quiet s (if t.meets cls n then _ else _ : Alloc × State).2
    split
    · exact h.trans (State.quiet_storeLow _ n)
    · exact h

theorem State.quiet_textChanged (s : State) (sid : Sid) : Quiet s (s.textChanged sid) := by
  unfold State.textChanged
  exact (s.quiet_modStory sid _).trans (State.quiet_spoilFit _ sid)

/-- A text change: the store rewritten, the chain set, and the story marked. -/
theorem State.quiet_rewrite (s : State) (x : List Block) (sid : Sid) (c : List Nat) :
    Quiet s (((s.setStore x).setChain sid c).textChanged sid) :=
  ((s.quiet_setStore x).trans (State.quiet_setChain _ sid c)).trans (State.quiet_textChanged _ sid)

theorem State.quiet_insertCell (s : State) (cls : AllocClass) (sid : Sid) (p : Nat) (c : Cell) :
    Quiet s (s.insertCell cls sid p c).2 := by
  have ha := s.quiet_allocate cls sid 1
  rcases hx : s.allocate cls sid 1 with ⟨a, t⟩
  rw [hx] at ha
  unfold State.insertCell
  simp only [hx]
  split
  · split
    · exact (s.quiet_setStore _).trans (State.quiet_textChanged _ sid)
    · cases a
      · exact ha.trans (State.quiet_rewrite _ _ sid _)
      · exact ha
  · generalize (if (s.chainOf sid).isEmpty = true then [] else blockCells s.store ((s.chainOf sid).getLastD 0)) = cells
    split
    · exact (s.quiet_setStore _).trans (State.quiet_textChanged _ sid)
    · cases a
      · exact ha.trans (State.quiet_rewrite _ _ sid _)
      · exact ha

theorem State.quiet_deleteCells (s : State) (sid : Sid) (p n : Nat) : Quiet s (s.deleteCells sid p n) := by
  unfold State.deleteCells
  exact ((s.quiet_setStore _).trans (State.quiet_setChain _ sid _)).trans (State.quiet_textChanged _ sid)

theorem State.quiet_replaceCell (s : State) (sid : Sid) (p : Nat) (c : Cell) : Quiet s (s.replaceCell sid p c) := by
  unfold State.replaceCell; split
  · exact Quiet.refl s
  · exact (s.quiet_setStore _).trans (State.quiet_textChanged _ sid)

theorem State.quiet_appendCells (s : State) (cls : AllocClass) (sid : Sid) (new : List Cell) :
    Quiet s (s.appendCells cls sid new).2 := by
  unfold State.appendCells
  split
  · exact Quiet.refl s
  · dsimp only
    generalize (if (s.chainOf sid).isEmpty = true then [] else blockCells s.store ((s.chainOf sid).getLastD 0)) = cells
    generalize (if (s.chainOf sid).isEmpty = true then 0 else 64 - cells.length) = room
    generalize (List.map Cell.clamped new) = new
    have ha := s.quiet_allocate cls sid ((new.length - room + 63) / 64)
    generalize s.allocate cls sid ((new.length - room + 63) / 64) = x at ha ⊢
    rcases x with ⟨a, t⟩
    generalize putBlock ((s.chainOf sid).getLastD 0) (cells ++ List.take room new) = put
    split
    · exact s.quiet_rewrite _ sid _
    · cases a
      · exact ha.trans (State.quiet_rewrite _ _ sid _)
      · exact ha

theorem State.quiet_takeRecord (s : State) : Quiet s s.takeRecord.2 := by
  unfold State.takeRecord; split
  · exact Quiet.refl s
  · split
    · exact Quiet.refl s
    · exact s.quiet_purgeStory _

/-! ## Setting channels -/

theorem State.quiet_chanTo (s : State) (ch : Chan) (st : ChanState) (r : Option OfflineReason) : Quiet s (s.chanTo ch st r) := by
  have h : Quiet s (s.setChan ch { s.chan ch with state := st, reason := r }) := s.quiet_setChan ch _ rfl
  unfold State.chanTo; dsimp only; split
  · exact h.trans (State.quiet_offer _ _)
  · exact h

theorem State.quiet_startStory (s : State) (ch : Chan) (n : Nat) (g : Segment) : Quiet s (s.startStory ch n g) :=
  (s.quiet_modStory _ _).trans (State.quiet_dropReviewers _ _ _)

theorem State.quiet_startJob (s : State) (ch : Chan) : Quiet s (s.startJob ch) := by
  unfold State.startJob; dsimp only; split
  · exact (Quiet.foldl _ (fun s (g : Segment) => s.quiet_startStory ch _ g) _ s).trans (State.quiet_modChan _ ch _ fun _ => rfl)
  · exact Quiet.refl s

theorem State.quiet_storyDone (s : State) (j : Job) (x : Segment × SegRun) : Quiet s (s.storyDone j x) := by
  unfold State.storyDone; dsimp only; split
  · exact s.quiet_modStory _ _
  · exact ((s.quiet_modStory _ _).trans (State.quiet_modStory _ _ _)).trans (State.quiet_enterBasket _ _ _ _)

theorem State.quiet_storyHome (s : State) (sid : Sid) : Quiet s (s.storyHome sid) := by
  unfold State.storyHome; split
  · exact Quiet.refl s
  · exact s.quiet_enterBasket _ _ _

theorem State.quiet_endJob (s : State) (ch : Chan) (e : JobEnd) : Quiet s (s.endJob ch e) := by
  unfold State.endJob; split
  · next j r _ _ =>
    have h : Quiet s (if e = .done then (j.segments.zip r.segs).foldl (fun s x => s.storyDone j x) s
        else j.segments.foldl (fun s g => s.storyHome g.key.sid) s) := by
      split
      · exact Quiet.foldl _ (fun s x => s.quiet_storyDone j x) _ s
      · exact Quiet.foldl (fun s (g : Segment) => s.storyHome g.key.sid) (fun s g => s.quiet_storyHome g.key.sid) _ s
    exact (h.trans (State.quiet_offer _ _)).trans (State.quiet_modChan _ ch _ fun _ => rfl)
  · exact Quiet.refl s

theorem State.quiet_afterEnd (s : State) (ch : Chan) : Quiet s (s.afterEnd ch) := by
  unfold State.afterEnd; split
  · exact (s.quiet_chanTo ch _ _).trans (State.quiet_startJob _ ch)
  · exact s.quiet_chanTo ch _ _

theorem State.quiet_expireDwell (s : State) (ch : Chan) (code : Code) : Quiet s (s.expireDwell ch code) := by
  unfold State.expireDwell; dsimp only
  split
  · exact (s.quiet_endJob ch _).trans (State.quiet_afterEnd _ ch)
  · split
    · exact s.quiet_modChan ch _ fun _ => rfl
    · split
      · exact (s.quiet_endJob ch _).trans (State.quiet_afterEnd _ ch)
      · split
        · refine Quiet.trans ?_ (State.quiet_chanTo _ ch _ _)
          exact s.quiet_modChan ch _ fun _ => rfl
        · exact s.quiet_modChan ch _ fun _ => rfl

theorem State.quiet_codeLeft (s : State) (ch : Chan) (code : Code) : Quiet s (s.codeLeft ch code) := by
  have h : Quiet s (if code.isLineEnd then s.modChan ch fun c => { c with run := c.run.map Run.lineSent } else s) := by
    split
    · exact s.quiet_modChan ch _ fun _ => rfl
    · exact Quiet.refl s
  unfold State.codeLeft; dsimp only
  split
  · exact h
  · split
    · exact h.trans (State.quiet_expireDwell _ ch code)
    · exact h.trans (State.quiet_modChan _ ch _ fun _ => rfl)

theorem LineRec.receiver_put (b : Byte) (r : LineRec) : (r.put b).receiver = r.receiver := by
  unfold LineRec.put; split <;> rfl

theorem LineRec.owner_put (b : Byte) (r : LineRec) : (r.put b).owner = r.owner := by
  unfold LineRec.put; split <;> rfl

theorem receiver_placeBytes (l : List Byte) (r : LineRec) : (placeBytes l r).2.receiver = r.receiver := by
  induction l generalizing r with
  | nil => rfl
  | cons b bs ih =>
    unfold placeBytes; split
    · rfl
    · rw [ih, LineRec.receiver_put]

theorem owner_placeBytes (l : List Byte) (r : LineRec) : (placeBytes l r).2.owner = r.owner := by
  induction l generalizing r with
  | nil => rfl
  | cons b bs ih =>
    unfold placeBytes; split
    · rfl
    · rw [ih, LineRec.owner_put]

theorem Channel.nextCode_params (c c' : Channel) (j : Job) (r : Run) (code : Code) (h : c.nextCode j r = some (code, c')) :
    c'.params = c.params := by
  unfold Channel.nextCode at h
  dsimp only at h
  repeat' split at h
  all_goals first
    | (cases h; rfl)
    | cases h

theorem State.quiet_drive (ch : Chan) (fuel : Nat) (s : State) : Quiet s (s.drive ch fuel) := by
  induction fuel generalizing s with
  | zero => exact Quiet.refl s
  | succ fuel ih =>
    unfold State.drive; dsimp only
    split
    · split
      · exact Quiet.refl s
      · split
        · split
          · exact Quiet.refl s
          · next h =>
            refine Quiet.trans (Quiet.trans (s.quiet_setChan ch _ (Channel.nextCode_params _ _ _ _ _ h)) ?_) (ih _)
            exact State.quiet_modChan _ ch _ fun _ => rfl
        · exact Quiet.refl s
      · split
        · exact Quiet.refl s
        · next l _ =>
          split
          · refine Quiet.trans (Quiet.trans ?_ (State.quiet_codeLeft _ ch _)) (ih _)
            exact (s.quiet_setLine l _ (by rw [owner_placeBytes]) (receiver_placeBytes _ _)).thenModChan ch _ fun _ => rfl
          · exact (s.quiet_setLine l _ (by rw [owner_placeBytes]) (receiver_placeBytes _ _)).thenModChan ch _ fun _ => rfl
    · exact Quiet.refl s

theorem State.quiet_goOn (s : State) (ch : Chan) : Quiet s (s.goOn ch) := State.quiet_drive ch 8 s

theorem State.quiet_acceptJob (s : State) (ch : Chan) (page rush : Bool) (q : Mover) (a : Option BasketNo)
    (segs : List Segment) : Quiet s (s.acceptJob ch page rush q a segs) := by
  unfold State.acceptJob
  dsimp only
  refine Quiet.trans (Quiet.trans ?_ (State.quiet_startJob _ ch)) (State.quiet_goOn _ ch)
  refine Quiet.thenModChan ?_ ch _ fun _ => rfl
  exact Quiet.foldl _ (fun s g => (s.quiet_exitBasket _).trans (State.quiet_modStory _ _ _)) segs s

theorem State.quiet_resetChan (s : State) (ch : Chan) (r : OfflineReason) : Quiet s (s.resetChan ch r) := by
  unfold State.resetChan; dsimp only
  refine Quiet.trans ?_ (State.quiet_offer _ _)
  exact (s.quiet_endJob ch _).thenModChan ch _ fun _ => rfl

theorem State.quiet_dropPlaced (s : State) (line : Option LineNo) : Quiet s (s.dropPlaced line) := by
  unfold State.dropPlaced; split
  · exact Quiet.refl s
  · exact s.quiet_setLine _ _ rfl rfl

theorem State.quiet_rebind (s : State) (ch : Chan) (old : Option LineNo) : Quiet s (s.rebind ch old) := by
  unfold State.rebind; split
  · exact Quiet.refl s
  · exact s.quiet_resetChan ch _
  · exact (s.quiet_dropPlaced _).trans (State.quiet_resetChan _ ch _)
  · split
    · exact Quiet.refl s
    · exact (s.quiet_dropPlaced _).trans (State.quiet_resetChan _ ch _)

/-! ## Sessions -/

theorem State.quiet_returnHeld (s : State) (l : LineNo) : Quiet s (s.returnHeld l) := by
  unfold State.returnHeld; split
  · exact Quiet.refl s
  · exact s.quiet_enterBasket _ _ _

theorem State.quiet_endReview (s : State) (l : LineNo) (ss : Session) : Quiet s (s.endReview l ss) := by
  unfold State.endReview; split
  · exact s.quiet_unreview l _
  · exact Quiet.refl s

theorem State.quiet_signOff (s : State) (l : LineNo) (ss : Session) (c : SignCause) : Quiet s (s.signOff l ss c) := by
  unfold State.signOff
  exact (((s.quiet_returnHeld l).trans (State.quiet_endReview _ l ss)).trans (State.quiet_modSession _ l _)).trans
    (State.quiet_offer _ _)

theorem State.quiet_signOn (s : State) (l : LineNo) (n : ProfileNo) (c : SignCause) : Quiet s (s.signOn l n c) := by
  unfold State.signOn
  exact (s.quiet_modSession l _).trans (State.quiet_offer _ _)

theorem State.quiet_reviewersFollow (s : State) (sid : Sid) (p k n : Nat) : Quiet s (s.reviewersFollow sid p k n) :=
  s.quiet_modSessions _

theorem State.quiet_editShown (s : State) (l : LineNo) (sid : Sid) (before : List Cell) (one : Bool) (p k n c : Nat) :
    Quiet s (s.editShown l sid before one p k n c) := by
  have h := (s.quiet_modSession l (Session.holdChange (screenLines before) (screenLines (s.text sid)) one c)).trans
    (State.quiet_reviewersFollow _ sid p k n)
  unfold State.editShown; dsimp only; split
  · exact h.trans (State.quiet_modSessions _ _)
  · exact h

/-! ## Intakes -/

theorem State.quiet_supersede (s : State) (new : Key) (service : Byte) (item : Nat) (sid : Sid) :
    Quiet s (State.supersede new service item s sid) :=
  (s.quiet_spikeStory sid).trans (State.quiet_offer _ _)

theorem State.quiet_endItem (s : State) (l : LineNo) (it : Item) (c : EndCause) : Quiet s (s.endItem l it c) := by
  unfold State.endItem; split
  · exact Quiet.refl s
  · split
    · exact s.quiet_freeStory _
    · have h : Quiet s (if c.truncates then s.modStory it.key.sid fun st => { st with truncated := true } else s) := by
        split
        · exact s.quiet_modStory _ _
        · exact Quiet.refl s
      exact ((h.trans (Quiet.foldl _ (fun s x => s.quiet_supersede it.key it.service it.number x) _ _)).trans
        (State.quiet_enterBasket _ _ _ _)).trans (State.quiet_offer _ _)

/-! ## What quiet leaves to say of an event -/

/-- The end of an event, and the taking of a waiting byte, keep every setting, role and receiver. -/
theorem Quiet.finished {s a : State} (b : State) (h : Quiet s a) : SameSettings s (b.finish a) ∧ SameLines s (b.finish a) :=
  ⟨⟨by simp [h.settings.profiles], by simp [h.settings.term], by simp [h.settings.formats], by simp [h.settings.widths],
      by simp [h.settings.eeprom], by simp [h.settings.loader], by simp [h.settings.pending],
      fun x => by rw [State.finish_baskets]; exact h.settings.names x,
      fun x => by rw [State.finish_chan]; exact h.settings.params x⟩,
    ⟨fun x => by rw [State.finish_role]; exact h.lines.roles x,
      fun x => by rw [State.finish_receiver]; exact h.lines.receivers x⟩⟩

theorem State.quiet_takeWaiting (s : State) : Quiet s s.takeWaiting := by
  unfold State.takeWaiting; split
  · exact Quiet.refl s
  · split
    · exact Quiet.refl s
    · exact Quiet.parts s s.store s.dir s.fitQueue _

theorem State.quiet_answered (s : State) (f : Frame) (r : Res) (body : List Byte) : Quiet s (s.answered f r body) :=
  (Quiet.parts s s.store s.dir s.fitQueue _).trans (State.quiet_takeWaiting _)

end Sys2Proof.Machine
end

