-- ==== Sys2Proof/Laws/Sending.lean ====
section
/-! SUPPORT. What the end of an event keeps of what a session has still to send: a row that was marked, a mode code, the cursor and
the bell that were asked for in the event (R76, R77). -/

namespace Sys2Proof.Machine

/-! ## What a session owes its terminal -/

/-- A row stands in the dirty set, and `n` more bytes do not take it out: if it is in flight, its changed flag is set or it has
that many bytes to go (R76, R78). -/
structure Session.OwesRow (r : Fin 24) (n : Nat) (ss : Session) : Prop where
  dirty : ss.dirty[r] = true
  flight : ∀ x, ss.flight = some x → x.row = r → x.changed = true ∨ x.placed + n ≤ (rowBytes x.row x.copy).length

/-- A mode code pends, and `n` more bytes do not end it (R77, R80). -/
structure Session.OwesMode (m : ModeCode) (n : Nat) (ss : Session) : Prop where
  pends : ss.modePending = some m
  code : ∀ c, ss.codeOut = some c → c.kind = .mode → c.again = true ∨ n ≤ c.rest.length

/-- The cursor pends, and `n` more bytes do not end it (R77). -/
structure Session.OwesCursor (n : Nat) (ss : Session) : Prop where
  pends : ss.cursorPending = true
  code : ∀ c, ss.codeOut = some c → c.kind = .cursor → c.again = true ∨ n ≤ c.rest.length

theorem rowBytes_length (row : Fin 24) (copy : RowCopy) : 4 ≤ (rowBytes row copy).length := by
  simp [rowBytes, cursorCode]

/-! ## One byte -/

theorem Session.OwesRow.choose {r : Fin 24} {n : Nat} {ss : Session} (hn : n ≤ 1) (h : ss.dirty[r] = true)
    (hf : ss.flight = none) : ss.choose.2.OwesRow r n := by
  have none' (x : Flight) (hx : ss.flight = some x) (P : Prop) : P := by rw [hf] at hx; cases hx
  unfold Session.choose
  split
  · exact ⟨h, fun x hx => none' x hx _⟩
  · split
    · exact ⟨h, fun x hx => none' x hx _⟩
    · split
      · exact ⟨h, fun x hx => none' x hx _⟩
      · split
        · refine ⟨h, fun x hx _ => .inr ?_⟩
          cases hx; have := rowBytes_length; dsimp only; exact Nat.le_trans (by omega) (this _ _)
        · split <;> exact ⟨h, fun x hx => none' x hx _⟩

theorem Session.OwesRow.nextByte {r : Fin 24} {n : Nat} {ss : Session} (hn : n ≤ 1) (h : ss.OwesRow r (n + 1)) :
    ss.nextByte.2.OwesRow r n := by
  unfold Session.nextByte
  split
  · next f hf =>
    split
    · refine ⟨h.dirty, fun x hx hr => ?_⟩
      cases hx; exact (h.flight f hf hr).imp_right fun z => by dsimp only; omega
    · next hb =>
      refine Session.OwesRow.choose hn ?_ (by unfold Session.endRow; dsimp only; split <;> (try split) <;> rfl)
      have hlen := List.getElem?_eq_none_iff.1 hb
      unfold Session.endRow; dsimp only
      split
      · exact h.dirty
      · next hc =>
        have hr : f.row ≠ r := fun hr => (h.flight f hf hr).elim hc fun z => by omega
        have hd : (ss.dirty.set f.row false)[r] = true := by
          have := h.dirty
          simp only [Fin.getElem_fin] at this ⊢
          rw [Vector.getElem_set_ne _ _ (fun e => hr (Fin.ext e))]; exact this
        split <;> exact hd
  · next c hf hc =>
    split
    · exact ⟨h.dirty, fun x hx => by rw [hf] at hx; cases hx⟩
    · refine Session.OwesRow.choose hn ?_ ?_ <;> unfold Session.endCode <;> split
      · exact h.dirty
      · exact h.dirty
      · exact hf
      · exact hf
  · next hf _ => exact Session.OwesRow.choose hn h.dirty hf

theorem Session.OwesMode.choose {m : ModeCode} {n : Nat} {ss : Session} (hn : n ≤ 1) (h : ss.modePending = some m) :
    ss.choose.2.OwesMode m n := by
  unfold Session.choose; split
  · next x hx => rw [h] at hx; cases hx; exact ⟨h, fun c hc _ => .inr (by cases hc; simpa using hn)⟩
  · next hx => rw [h] at hx; cases hx

theorem Session.OwesMode.nextByte {m : ModeCode} {n : Nat} {ss : Session} (hn : n ≤ 1) (h : ss.OwesMode m (n + 1)) :
    ss.nextByte.2.OwesMode m n := by
  unfold Session.nextByte
  split
  · split
    · exact ⟨h.pends, fun c hc hk => (h.code c hc hk).imp_right fun x => by omega⟩
    · refine Session.OwesMode.choose hn ?_
      unfold Session.endRow; dsimp only; split
      · exact h.pends
      · split <;> exact h.pends
  · next c _ hc =>
    split
    · next b rest hr =>
      refine ⟨h.pends, fun x hx hk => ?_⟩
      cases hx; have := h.code c hc hk; rw [hr] at this; simpa using this
    · next hr =>
      refine Session.OwesMode.choose hn ?_
      unfold Session.endCode; split
      · next hk => have := h.code c hc hk; rw [hr] at this; simp_all [h.pends]
      · exact h.pends
  · exact Session.OwesMode.choose hn h.pends

theorem Session.OwesCursor.choose {n : Nat} {ss : Session} (hn : n ≤ 1) (h : ss.cursorPending = true)
    (hc : ∀ c, ss.codeOut = some c → c.kind = .cursor → c.again = true ∨ n ≤ c.rest.length) :
    ss.choose.2.OwesCursor n := by
  unfold Session.choose
  split
  · exact ⟨h, fun c hx hk => by cases hx; cases hk⟩
  · split
    · exact ⟨h, hc⟩
    · split
      · exact ⟨h, hc⟩
      · split
        · exact ⟨h, hc⟩
        · exact ⟨h, fun c hx _ => .inr (by cases hx; simp [cursorCode]; omega)⟩

theorem Session.OwesCursor.nextByte {n : Nat} {ss : Session} (hn : n ≤ 1) (h : ss.OwesCursor (n + 1)) :
    ss.nextByte.2.OwesCursor n := by
  have weak : ∀ c, ss.codeOut = some c → c.kind = .cursor → c.again = true ∨ n ≤ c.rest.length :=
    fun c hc hk => (h.code c hc hk).imp_right fun x => by omega
  unfold Session.nextByte
  split
  · split
    · exact ⟨h.pends, weak⟩
    · unfold Session.endRow; dsimp only
      split
      · exact Session.OwesCursor.choose hn h.pends weak
      · split
        · exact Session.OwesCursor.choose hn rfl weak
        · exact Session.OwesCursor.choose hn h.pends weak
  · next c _ hc =>
    split
    · next b rest hr =>
      refine ⟨h.pends, fun x hx hk => ?_⟩
      cases hx; have := h.code c hc hk; rw [hr] at this; simpa using this
    · next hr =>
      unfold Session.endCode; split
      · exact Session.OwesCursor.choose hn h.pends fun x hx => by cases hx
      · next hk =>
        have := h.code c hc hk; rw [hr] at this
        exact Session.OwesCursor.choose hn (by simpa using this) fun x hx => by cases hx
  · exact Session.OwesCursor.choose hn h.pends weak

/-- The bell still pends behind a byte, or that byte was the bell (R77). -/
theorem Session.nextByte_bell (ss : Session) (h : ss.bell = true) : ss.nextByte.2.bell = true ∨ ss.nextByte.1 = some 0x07 := by
  have choose (x : Session) (hx : x.bell = true) : x.choose.2.bell = true ∨ x.choose.1 = some 0x07 := by
    unfold Session.choose; split
    · exact .inl hx
    · rw [if_pos hx]; exact .inr rfl
  unfold Session.nextByte
  split
  · split
    · exact .inl h
    · refine choose _ ?_
      unfold Session.endRow; dsimp only; split
      · exact h
      · split <;> exact h
  · split
    · exact .inl h
    · refine choose _ ?_
      unfold Session.endCode; split <;> exact h
  · exact choose _ h

/-! ## A line -/

/-- A taken holding slot is not filled again (R56). -/
theorem LineRec.fill_full (n : Nat) (r : LineRec) (h : r.holding.isSome = true) : r.fill n = r := by
  cases n with
  | zero => rfl
  | succ n => unfold LineRec.fill; rw [if_pos h]

@[simp] theorem LineRec.put_owner (b : Byte) (r : LineRec) : (r.put b).owner = r.owner := by unfold LineRec.put; split <;> rfl

/-- A byte placed before a busy shift stage stays in the holding slot (R56). -/
theorem LineRec.put_busy (b : Byte) (r : LineRec) (h : r.shift.isNone = false) : r.put b = { r with holding := some b } := by
  simp [LineRec.put, h]

/-- A byte placed before an empty shift stage moves to it (R56). -/
theorem LineRec.put_idle (b : Byte) (r : LineRec) (h : r.shift.isNone = true) :
    r.put b = { r with shift := some { byte := r.settings.sent b, settings := r.settings } } := by simp [LineRec.put, h]

/-- What the end of an event sends of a session: nothing where the holding slot is taken or nothing is to be sent, one byte, or
with the shift stage empty two (R56, R77). -/
theorem LineRec.fill_cases (r : LineRec) (ss : Session) (ho : r.owner = .terminal ss) :
    (r.holding.isSome = true ∧ r.fill 3 = r) ∨ (r.holding = none ∧
      ((ss.nextByte.1 = none ∧ r.fill 3 = { r with owner := .terminal ss.nextByte.2 }) ∨ ∃ b, ss.nextByte.1 = some b ∧
        ((r.shift.isNone = false ∧ r.fill 3 = { r with owner := .terminal ss.nextByte.2, holding := some b }) ∨
          (r.shift = none ∧ ∃ next, next = ss.nextByte.2.nextByte.1 ∧ r.fill 3 =
            { r with
              owner := .terminal ss.nextByte.2.nextByte.2, holding := next,
              shift := some { byte := r.settings.sent b, settings := r.settings } })))) := by
  by_cases hh : r.holding.isSome = true
  · exact .inl ⟨hh, r.fill_full 3 hh⟩
  have hn : r.holding = none := by simpa using hh
  refine .inr ⟨hn, ?_⟩
  unfold LineRec.fill; rw [if_neg hh, ho]; dsimp only
  split
  · next s1 e => rw [e]; exact .inl ⟨rfl, rfl⟩
  next b s1 e =>
  rw [e]; refine .inr ⟨b, rfl, ?_⟩
  cases hs : r.shift.isNone with
  | false =>
    rw [LineRec.put_busy b { r with owner := .terminal s1 } hs]
    exact .inl ⟨rfl, LineRec.fill_full 2 _ rfl⟩
  | true =>
    refine .inr ⟨by simpa using hs, _, rfl, ?_⟩
    rw [LineRec.put_idle b { r with owner := .terminal s1 } hs]
    unfold LineRec.fill
    rw [if_neg (by exact hh)]; dsimp only
    split
    · next s2 e2 => rw [e2]; simp [hn]
    · next b2 s2 e2 =>
      rw [e2, LineRec.put_busy _ _ rfl]
      exact LineRec.fill_full 1 _ rfl

/-- A line whose session is filled at the end of an event takes two bytes of it at most, so what two bytes leave is left (R56). -/
theorem LineRec.fill_keeps (P : Nat → Session → Prop) (weaken : ∀ n ss, P (n + 1) ss → P n ss)
    (byte : ∀ n ss, n ≤ 1 → P (n + 1) ss → P n ss.nextByte.2) (r : LineRec) (ss : Session) (ho : r.owner = .terminal ss)
    (h : P 2 ss) : ∃ ss', (r.fill 3).owner = .terminal ss' ∧ P 0 ss' := by
  have one := byte 1 ss (by omega) h
  rcases r.fill_cases ss ho with ⟨_, e⟩ | ⟨_, ⟨_, e⟩ | ⟨b, _, ⟨_, e⟩ | ⟨_, next, _, e⟩⟩⟩ <;> rw [e]
  · exact ⟨ss, ho, weaken _ _ (weaken _ _ h)⟩
  · exact ⟨_, rfl, weaken _ _ one⟩
  · exact ⟨_, rfl, weaken _ _ one⟩
  · exact ⟨_, rfl, byte 0 _ (by omega) one⟩

/-- A bell that pends pends on, or is sent at once where the holding slot is empty (R56, R77). -/
theorem LineRec.fill_bell (r : LineRec) (ss : Session) (ho : r.owner = .terminal ss) (h : ss.bell = true) :
    (r.holding.isSome = true → ∃ ss', (r.fill 3).owner = .terminal ss' ∧ ss'.bell = true) ∧
    (r.holding = none → (∃ ss', (r.fill 3).owner = .terminal ss' ∧ ss'.bell = true) ∨ (r.fill 3).holding = some 0x07 ∨
      (r.shift = none ∧ (r.fill 3).shift = some { byte := 0x07, settings := r.settings })) := by
  have one := ss.nextByte_bell h
  have sent (x : Settings) : x.sent 0x07 = 0x07 := by unfold Settings.sent; split <;> rfl
  rcases r.fill_cases ss ho with ⟨hh, e⟩ | ⟨hh, ⟨hb, e⟩ | ⟨b, hb, ⟨_, e⟩ | ⟨hs, next, hx, e⟩⟩⟩ <;> rw [e]
  · exact ⟨fun _ => ⟨ss, ho, h⟩, fun x => by rw [x] at hh; cases hh⟩
  all_goals refine ⟨fun x => (by rw [hh] at x; cases x), fun _ => ?_⟩
  · rw [hb] at one; exact .inl ⟨_, rfl, one.resolve_right nofun⟩
  · exact one.imp (fun x => ⟨_, rfl, x⟩) fun x => .inl (by rw [hb] at x; exact x)
  · rcases one with x | x
    · exact (Session.nextByte_bell _ x).imp (fun y => ⟨_, rfl, y⟩) fun y => .inl (hx.trans y)
    · rw [hb] at x; cases x; exact .inr (.inr ⟨hs, by rw [sent]⟩)

/-- What every mark, view, image and cursor position leaves is left when a session is brought up to date (R71, R76, R77). -/
theorem Session.refresh_keeps (P : Session → Prop) (mark : ∀ p ss, P ss → P (ss.mark p))
    (view : ∀ v (ss : Session), P ss → P { ss with view := v }) (image : ∀ i (ss : Session), P ss → P { ss with image := i })
    (cursor : ∀ c (ss : Session), P ss → P { ss with cursorAt := c }.pendCursor) (before after : State) (l : LineNo)
    (ss : Session) (h : P ss) : P (ss.refresh before after l) := by
  have showing (v w : View) (x : Session) (hx : P x) : P (x.showView v w) := by
    unfold Session.showView; dsimp only; split
    · exact mark _ _ (view _ _ hx)
    · split
      · exact mark _ _ (mark _ _ (view _ _ hx))
      · exact view _ _ hx
  have fit : P (ss.fitView after) := by
    unfold Session.fitView; split
    · exact showing _ _ _ h
    · exact h
  have list : P ((ss.fitView after).markView before after (before.session? l)) := by
    unfold Session.markView; split
    · split
      · exact fit
      · split
        · split
          · unfold Session.markFrom; split
            · split
              · exact mark _ _ fit
              · exact fit
            · exact fit
          · exact fit
        · exact fit
    · exact fit
  have status (x : Session) (hx : P x) : P (x.markStatus before after l (before.session? l)) := by
    unfold Session.markStatus; split
    · exact mark _ _ hx
    · exact hx
  have drawn (x : Session) (hx : P x) : P (x.redraw after) := by unfold Session.redraw; exact image _ _ (mark _ _ hx)
  have moved (x : Session) (hx : P x) : P (x.moveScreenCursor after) := by
    unfold Session.moveScreenCursor; dsimp only; split
    · exact hx
    · exact cursor _ _ hx
  exact moved _ (drawn _ (status _ list))

/-- A line at the end of an event. -/
theorem State.line_finish (before after : State) (l : LineNo) :
    (before.finish after).lines[l] = after.lines[l].settle before after l := by simp [State.finish, State.settle]

theorem State.owner_of_session {s : State} {l : LineNo} {ss : Session} (h : s.session? l = some ss) :
    s.lines[l].owner = .terminal ss := by
  unfold State.session? at h; cases e : s.lines[l].owner <;> simp_all [Owner.session?]

/-- What a session of the state after an event owes is owed at the event's end, if marks and two bytes leave it. -/
theorem State.finish_keeps (P : Nat → Session → Prop) (weaken : ∀ n ss, P (n + 1) ss → P n ss)
    (byte : ∀ n ss, n ≤ 1 → P (n + 1) ss → P n ss.nextByte.2) (mark : ∀ p ss, P 2 ss → P 2 (ss.mark p))
    (view : ∀ v (ss : Session), P 2 ss → P 2 { ss with view := v })
    (image : ∀ i (ss : Session), P 2 ss → P 2 { ss with image := i })
    (cursor : ∀ c (ss : Session), P 2 ss → P 2 { ss with cursorAt := c }.pendCursor) (before after : State) (l : LineNo)
    (ss : Session) (h : after.session? l = some ss) (hp : P 2 ss) :
    ∃ ss', (before.finish after).session? l = some ss' ∧ P 0 ss' := by
  have ho := State.owner_of_session h
  obtain ⟨ss', h1, h2⟩ := LineRec.fill_keeps P weaken byte
    { after.lines[l] with owner := after.lines[l].owner.mapSession (Session.refresh before after l) }
    (ss.refresh before after l) (by dsimp only; rw [ho]; rfl)
    (Session.refresh_keeps (P 2) mark view image cursor before after l ss hp)
  exact ⟨ss', by rw [State.session?, State.line_finish, LineRec.settle, h1]; rfl, h2⟩

theorem Session.mark_dirty (p : Fin 24 → Bool) (ss : Session) (r : Fin 24) : (ss.mark p).dirty[r] = (ss.dirty[r] || p r) := by
  simp [Session.mark]

theorem Session.OwesRow.mark {r : Fin 24} {n : Nat} {ss : Session} (p : Fin 24 → Bool) (h : ss.OwesRow r n) :
    (ss.mark p).OwesRow r n := by
  refine ⟨by rw [Session.mark_dirty, h.dirty]; rfl, fun x hx hr => ?_⟩
  simp only [Session.mark, Option.map_eq_some_iff] at hx
  obtain ⟨f, hf, rfl⟩ := hx
  by_cases k : p f.row = true
  · rw [if_pos k]; exact .inl rfl
  · rw [if_neg k] at hr ⊢; exact h.flight f hf hr

/-- A row that an event has marked is marked at its end (R76). -/
theorem State.rowDirty_finish (before after : State) (l : LineNo) (r : Fin 24) (ss : Session) (h : after.session? l = some ss)
    (hr : ss.OwesRow r 2) : RowDirty (before.finish after) l r := by
  obtain ⟨ss', h1, h2⟩ := State.finish_keeps (fun n x => x.OwesRow r n)
    (fun n x hx => ⟨hx.dirty, fun y hy e => (hx.flight y hy e).imp_right fun z => by omega⟩)
    (fun n x hn hx => hx.nextByte hn) (fun p x hx => hx.mark p) (fun _ _ hx => ⟨hx.dirty, hx.flight⟩)
    (fun _ _ hx => ⟨hx.dirty, hx.flight⟩) (fun _ _ hx => ⟨hx.dirty, hx.flight⟩) before after l ss h hr
  exact ⟨ss', h1, h2.dirty⟩

/-- A marked session owes its marked rows: a row in flight that is one of them is sent again (R76). -/
theorem Session.owesRow_mark (p : Fin 24 → Bool) (ss : Session) (r : Fin 24) (n : Nat) (h : p r = true) :
    (ss.mark p).OwesRow r n := by
  refine ⟨by rw [Session.mark_dirty, h, Bool.or_true], fun x hx hr => .inl ?_⟩
  simp only [Session.mark, Option.map_eq_some_iff] at hx
  obtain ⟨f, hf, rfl⟩ := hx
  by_cases k : p f.row = true
  · rw [if_pos k]
  · rw [if_neg k] at hr; rw [hr] at k; exact absurd h k

@[simp] theorem Session.mark_modePending (p : Fin 24 → Bool) (ss : Session) : (ss.mark p).modePending = ss.modePending := by
  simp only [Session.mark]
@[simp] theorem Session.mark_cursorPending (p : Fin 24 → Bool) (ss : Session) : (ss.mark p).cursorPending = ss.cursorPending := by
  simp only [Session.mark]
@[simp] theorem Session.mark_codeOut (p : Fin 24 → Bool) (ss : Session) : (ss.mark p).codeOut = ss.codeOut := by
  simp only [Session.mark]
@[simp] theorem Session.mark_bell (p : Fin 24 → Bool) (ss : Session) : (ss.mark p).bell = ss.bell := by
  simp only [Session.mark]

theorem Session.OwesMode.mark {m : ModeCode} {n : Nat} {ss : Session} (p : Fin 24 → Bool) (h : ss.OwesMode m n) :
    (ss.mark p).OwesMode m n := ⟨by simpa using h.pends, by simpa using h.code⟩

theorem Session.OwesCursor.mark {n : Nat} {ss : Session} (p : Fin 24 → Bool) (h : ss.OwesCursor n) :
    (ss.mark p).OwesCursor n := ⟨by simpa using h.pends, by simpa using h.code⟩

/-- A mode code that an event has made pending pends at its end (R77, R80). -/
theorem State.modePends_finish (before after : State) (l : LineNo) (m : ModeCode) (ss : Session)
    (h : after.session? l = some ss) (hm : ss.OwesMode m 2) : ModePends (before.finish after) l m := by
  obtain ⟨ss', h1, h2⟩ := State.finish_keeps (fun n x => x.OwesMode m n)
    (fun n x hx => ⟨hx.pends, fun c hc hk => (hx.code c hc hk).imp_right fun z => by omega⟩)
    (fun n x hn hx => hx.nextByte hn) (fun p _ hx => hx.mark p) (fun _ _ hx => ⟨hx.pends, hx.code⟩)
    (fun _ _ hx => ⟨hx.pends, hx.code⟩)
    (fun _ x hx => ⟨hx.pends, fun c hc hk => by
      simp only [Session.pendCursor, Option.map_eq_some_iff] at hc
      obtain ⟨d, hd, rfl⟩ := hc
      by_cases k : d.kind = .cursor
      · rw [if_pos k] at hk; rw [k] at hk; cases hk
      · rw [if_neg k] at hk ⊢; exact hx.code d hd hk⟩) before after l ss h hm
  exact ⟨ss', h1, h2.pends⟩

theorem Session.owesMode_pendMode (m : ModeCode) (ss : Session) (n : Nat) : (ss.pendMode m).OwesMode m n := by
  refine ⟨rfl, fun c hc hk => .inl ?_⟩
  simp only [Session.pendMode, Option.map_eq_some_iff] at hc
  obtain ⟨d, hd, rfl⟩ := hc
  by_cases k : d.kind = .mode
  · rw [if_pos k]
  · rw [if_neg k] at hk; exact absurd hk k

/-- The cursor, once an event has made it pending, pends at its end (R77). -/
theorem State.cursorPends_finish (before after : State) (l : LineNo) (ss : Session) (h : after.session? l = some ss)
    (hc : ss.OwesCursor 2) : CursorPends (before.finish after) l := by
  obtain ⟨ss', h1, h2⟩ := State.finish_keeps (fun n x => x.OwesCursor n)
    (fun n x hx => ⟨hx.pends, fun c hc hk => (hx.code c hc hk).imp_right fun z => by omega⟩)
    (fun n x hn hx => hx.nextByte hn) (fun p _ hx => hx.mark p) (fun _ _ hx => ⟨hx.pends, hx.code⟩)
    (fun _ _ hx => ⟨hx.pends, hx.code⟩)
    (fun _ x hx => ⟨rfl, fun c hc hk => by
      simp only [Session.pendCursor, Option.map_eq_some_iff] at hc
      obtain ⟨d, hd, rfl⟩ := hc
      by_cases k : d.kind = .cursor
      · rw [if_pos k]; exact .inl rfl
      · rw [if_neg k] at hk; exact absurd hk k⟩) before after l ss h hc
  exact ⟨ss', h1, h2.pends⟩

theorem Session.owesCursor_pendCursor (ss : Session) (n : Nat) : ss.pendCursor.OwesCursor n := by
  refine ⟨rfl, fun c hc hk => .inl ?_⟩
  simp only [Session.pendCursor, Option.map_eq_some_iff] at hc
  obtain ⟨d, hd, rfl⟩ := hc
  by_cases k : d.kind = .cursor
  · rw [if_pos k]
  · rw [if_neg k] at hk; exact absurd hk k

/-- A row in flight behind a taken holding slot, once its changed flag is set, stays as it is to the end of the event (R76). -/
theorem State.flight_finish (before after : State) (l : LineNo) (ss : Session) (x : Flight) (h : after.session? l = some ss)
    (hf : ss.flight = some x) (hx : x.changed = true) (hh : after.lines[l].holding.isSome = true) :
    ∃ ss', (before.finish after).session? l = some ss' ∧ ss'.flight = some x := by
  have kept : (ss.refresh before after l).flight = some x :=
    Session.refresh_keeps (fun y => y.flight = some x)
      (fun p y hy => by
        simp only [Session.mark, hy, Option.map_some, Option.some.injEq]
        split
        · cases x; simp_all
        · rfl)
      (fun _ _ hy => hy) (fun _ _ hy => hy) (fun _ _ hy => hy) before after l ss hf
  refine ⟨ss.refresh before after l, ?_, kept⟩
  rw [State.session?, State.line_finish, LineRec.settle, LineRec.fill_full _ _ (by exact hh)]
  dsimp only; rw [State.owner_of_session h]; rfl

/-- A bell that an event has asked for rings (R77). -/
theorem State.rings_finish (before after : State) (l : LineNo) (ss : Session) (h : after.session? l = some ss)
    (hb : ss.bell = true) (hh : after.lines[l].holding = before.lines[l].holding)
    (hs : after.lines[l].shift = before.lines[l].shift) (hx : after.lines[l].settings = before.lines[l].settings) :
    Rings before (before.finish after) l := by
  have ho := State.owner_of_session h
  have kept : (ss.refresh before after l).bell = true :=
    Session.refresh_keeps (fun x => x.bell = true) (fun p x hx => by rw [Session.mark_bell]; exact hx) (fun _ _ hx => hx)
      (fun _ _ hx => hx) (fun _ _ hx => hx) before after l ss hb
  have line := LineRec.fill_bell { after.lines[l] with owner := after.lines[l].owner.mapSession (Session.refresh before after l) }
    (ss.refresh before after l) (by dsimp only; rw [ho]; rfl) kept
  have session : (∃ ss', ({ after.lines[l] with
      owner := after.lines[l].owner.mapSession (Session.refresh before after l) }.fill 3).owner = .terminal ss' ∧
        ss'.bell = true) → ∃ ss', (before.finish after).session? l = some ss' ∧ ss'.bell = true :=
    fun ⟨ss', h1, h2⟩ => ⟨ss', by rw [State.session?, State.line_finish, LineRec.settle, h1]; rfl, h2⟩
  refine ⟨fun x => session (line.1 (by rw [← hh] at x; exact x)), fun x => ?_⟩
  rw [State.line_finish, LineRec.settle, ← hs, ← hx]
  exact (line.2 (hh.trans x)).imp_left session

end Sys2Proof.Machine
end

