-- ==== Sys2Proof/Laws/Taking.lean ====
section
/-! SUPPORT. What a key command, an intake command and a status byte do, said once: the equations of the shared operations under
the condition that each takes its event, and when each leaves the state as it is. -/

namespace Sys2Proof.Machine

/-! ## Lines -/

@[simp] theorem onLine_val (l : LineNo) (s : State) (f : LineNo → Host.Outcome State Fault Refusal) :
    onLine l.val s f = f l := by simp [onLine, l.isLt]

theorem onLine_out (n : Nat) (s : State) (f : LineNo → Host.Outcome State Fault Refusal) (h : 40 ≤ n) :
    onLine n s f = .next s := by simp [onLine]; omega

/-! ## Keys (R64) -/

/-- A key that the command accepts: its bytes leave the FIFO, the message area is emptied, and the key acts. -/
theorem takeKey_eq (l : LineNo) (p : HeadKey → Bool) (act : LineNo → Session → HeadKey → State → State) (s : State)
    (ss : Session) (k : HeadKey) (rest : List Byte) (h : s.session? l = some ss) (hk : headKey ss.fifo = some (k, rest))
    (hp : p k = true) :
    takeKey l.val p act s = ended s (act l { ss with fifo := rest, message := none } k
      (s.setSession l { ss with fifo := rest, message := none })) := by
  simp [takeKey, h, hk, hp]

/-- Any other head of the FIFO leaves the state as it is. -/
theorem takeKey_other (l : LineNo) (p : HeadKey → Bool) (act : LineNo → Session → HeadKey → State → State) (s : State)
    (ss : Session) (h : s.session? l = some ss) (hk : ∀ k rest, headKey ss.fifo = some (k, rest) → p k = false) :
    takeKey l.val p act s = .next s := by
  rw [takeKey, onLine_val, h]
  cases hx : headKey ss.fifo with
  | none => simp only [hx]
  | some x => simp only [hx, hk x.1 x.2 hx, Bool.false_eq_true, if_false]

/-- What the key's act reaches, whatever the end of the event then does to the screens and the line. -/
theorem takeKey_reaches (l : LineNo) (p : HeadKey → Bool) (act : LineNo → Session → HeadKey → State → State) (s : State)
    (ss : Session) (k : HeadKey) (rest : List Byte) (h : s.session? l = some ss) (hk : headKey ss.fifo = some (k, rest))
    (hp : p k = true) :
    Reaches (takeKey l.val p act s) (act l { ss with fifo := rest, message := none } k
      (s.setSession l { ss with fifo := rest, message := none })) := by
  rw [takeKey_eq l p act s ss k rest h hk hp]; exact reaches_ended _ _

/-! ## Intakes (R110, R111) -/

theorem takeWireChar_eq (l : LineNo) (p : RxChar → Bool) (act : LineNo → Intake → RxChar → State → State) (s : State)
    (ik : Intake) (c : RxChar) (h : s.intake? l = some ik) (hc : s.lines[l].slot = some c) (hp : p c = true) :
    takeWireChar l.val p act s = ended s (act l ik c (s.modLine l fun r => { r with slot := none })) := by
  rw [takeWireChar, onLine_val, h, hc]; simp [hp]

theorem takeHanded_eq (l : LineNo) (kind : Handed) (act : LineNo → Intake → State → State) (s : State) (ik : Intake)
    (rest : List Handed) (h : s.intake? l = some ik) (hk : ik.handed = kind :: rest) :
    takeHanded l.val kind act s = ended s (act l { ik with handed := rest } s) := by
  rw [takeHanded, onLine_val, h]; simp [hk]

/-! ## Status bytes (R163) -/

theorem statusFrame_eq (ch : Chan) (b : Byte) (s : State) (l : LineNo) (h : s.boundLine ch = some l)
    (hx : s.lines[l].rx = .assemble) :
    statusFrame ch b s =
      ended s (s.frameEnd l b { parity := false, framing := false, overrun := s.lines[l].slot.isSome } true) := by
  rw [statusFrame, h]; simp only [hx, if_true]

end Sys2Proof.Machine
end

