-- ==== Sys2Proof/WellFormed.lean ====
section
/-! DEFINITION. A command is well formed when the line it names, if it names one, is one of the 40 line positions
L0 to L39 (R44). -/

namespace Sys2Proof

/-- The line position a command names, where it names one. -/
def Instr.line? : Instr → Option Nat
  | .characterReceived l _ _ _ | .breakDetected l | .idleTimerExpiry l | .txFrameEnd l
  | .blankTimerExpiry l | .blinkTimerExpiry l | .textKey l | .unknownKey l | .keyLeft l | .keyRight l
  | .keyWordLeft l | .keyWordRight l | .keyLineStart l | .keyLineEnd l | .keyUp l | .keyDown l
  | .keyPageFwd l | .keyPageBack l | .keyDelChar l | .keyDelWord l | .keyInsertToggle l | .keyMark l
  | .keyNew l | .keyFetch l | .keyReview l | .keyRelease l | .keySend l | .keyKill l | .keySet l
  | .keyFit l | .keyPriority l | .keyNextBasket l | .keyPrevBasket l | .keyAck l | .keyOff l
  | .wireStartByte l | .wireEndByte l | .intakeCharacter l | .intakeBreak l | .intakeIdle l
  | .lineSampledMarking l | .startBitSampled l | .falseStart l => some l
  | .powerStart | .imageLoadDone | .inboundByte _ | .gapExpiry | .outboundAck | .directionChange
  | .unknownOrder | .status | .lineRole | .lineSet | .lineReset | .lineStatus | .lineTest | .signOn
  | .signOff | .terminalMessage | .displayMode | .storyCreate | .storyAppend | .storyRead | .storyInfo
  | .directory | .move | .priority | .kill | .unkill | .purge | .fit | .setStory | .setPage | .withdraw
  | .cancel | .formatLoad | .widthLoad | .basketName | .profileLoad | .wireAccept | .setterParameters
  | .imageRead | .imageReadDone | .imageWrite | .imageWriteDone | .restart | .restartEvent
  | .ready _ | .notReady _ | .fault _ | .dwellExpiry _ | .stagingDone _ | .stallTimerExpiry _
  | .fitComplete => none

/-- Every line position a command names is one of L0 to L39 (R44). -/
def Instr.wellFormed (i : Instr) : Bool :=
  match i.line? with
  | some l => decide (l < 40)
  | none => true

end Sys2Proof
end

