-- ==== Sys2Proof/Tests/Slice0.lean ====
section
/-! SUPPORT. Small tests: the well-formedness check, the reader of words, one-step results taken from the manual's own worked
examples, and for every obligation that has hypotheses a state and operands that meet them. -/

namespace Sys2Proof.Tests

open Sys2Proof.Machine

/-! ## Small states -/

/-- The machine with its image load done. -/
def up : State := { State.reset with loader := { result := .signature, loading := false } }

/-- A frame of a kind with tag 1. -/
def fr (k : Byte) (body : List Byte) : Frame := { kind := k, tag := 1, body := body }

/-- A state with an order in buffer A. -/
def asked (k : Byte) (body : List Byte) (s : State) : State := { s with host := { s.host with bufA := .held (fr k body) 0 } }

theorem front_asked (k : Byte) (body : List Byte) (s : State) (h : s.host = .powerStart) :
    Front (asked k body s) k (fr k body) :=
  ⟨by simp [asked, State.nextOrder, h, HostChan.powerStart, HostChan.earliest, HostChan.orderDue, Buf.isHeld], rfl, by simp [fr]⟩

/-- A story called BUDGET at a place, with home basket 3. -/
def story (p : Place) : Story :=
  { slug := ascii "BUDGET", prio := .urgent, origin := .order, home := 3, place := p, reviewers := [], format := 0, chain := [],
    count := 0, depth := none, setCount := 0, route := [], truncated := false, overset := false }

/-- That story as number 8, in the basket its place names. -/
def filed (p : Place) : State :=
  let s := up.setRec 7 { gen := 1, story := some (story p) }
  match p with
  | .opn b => s.setStories b [7]
  | .killed => s.setStories spikeBasket [7]
  | _ => s

theorem filed_dir (p : Place) : (filed p).dir[(7 : Sid)] = { gen := 1, story := some (story p) } := by
  have : (filed p).dir = (up.setRec 7 { gen := 1, story := some (story p) }).dir := by cases p <;> rfl
  rw [this]; simp

theorem filed_host (p : Place) : (filed p).host = .powerStart := by cases p <;> rfl

theorem names_filed (p : Place) (k : Byte) (body : List Byte) : Names (asked k body (filed p)) 0 8 1 7 (story p) :=
  ⟨rfl, filed_dir p⟩

theorem front_filed (p : Place) (k : Byte) (body : List Byte) : Front (asked k body (filed p)) k (fr k body) :=
  front_asked k body _ (filed_host p)

/-- A line with a session on L5. -/
def desk (ss : Session) (s : State) : State := s.setLine 5 { LineRec.powerStart with owner := .terminal ss }

/-- A session signed on under profile 2 and showing basket 3, with bytes in its key FIFO. -/
def seat (st : SessState) (fifo : List Byte) : Session :=
  { Session.fresh 15 with state := st, profile := some 2, view := some { basket := some 3, top := 0, highlight := 0 }, fifo := fifo }

/-- An edit state on story 8. -/
def edit : Edit := { key := { sid := 7, gen := 1 }, cursor := 0, top := 0, overstrike := false, entry := none }

theorem session_desk (ss : Session) (s : State) : (desk ss s).session? 5 = some ss := by
  simp [desk, State.session?]; rfl

/-- A line with an intake on L6. -/
def circuit (ik : Intake) (slot : Option RxChar) (s : State) : State :=
  s.setLine 6 { LineRec.powerStart with owner := .wire ik, slot := slot }

/-- A setter line L7, to which channel A is bound. -/
def press (s : State) : State := s.setLine 7 { LineRec.powerStart with owner := .setter, rx := .assemble }

/-- A story job for story 8. -/
def job : Job :=
  { number := 1, page := false, rush := false, queuer := none, after := some 3,
    segments := [{ key := { sid := 7, gen := 1 }, measure := 0, depth := 0, column := 0, top := 0 }], running := true }

def waiting (n : Nat) : Job := { job with number := n, running := false }

/-- Two stories, number 8 and number 10, each in the basket its place names, over a store. -/
def shelved (a z : Option Story) (store : List Block) : State :=
  { up with
    store := store
    dir := (up.dir.set (7 : Sid) { gen := 1, story := a }).set (9 : Sid) { gen := 1, story := z }
    baskets := Vector.ofFn fun b =>
      { name := up.baskets[b].name
        stories := (if a.bind (fun st => st.place.basket?) = some b then [7] else []) ++
          (if z.bind (fun st => st.place.basket?) = some b then [9] else []) } }

theorem shelved_dir (a z : Option Story) (store : List Block) (sid : Sid) :
    (shelved a z store).dir[sid] = if sid = 9 then { gen := 1, story := z } else if sid = 7 then { gen := 1, story := a }
      else { gen := 0, story := none } := by
  by_cases h9 : sid = 9
  · subst h9; simp [shelved]
  · have e9 : (9 : Nat) ≠ sid.val := fun e => h9 (Fin.ext e.symm)
    by_cases h7 : sid = 7
    · subst h7; simp [shelved]
    · have e7 : (7 : Nat) ≠ sid.val := fun e => h7 (Fin.ext e.symm)
      simp [shelved, up, State.reset, State.atPowerStart, h7, h9, e7, e9]

theorem shelved_story (a z : Option Story) (store : List Block) (s : State) (h : s.dir = (shelved a z store).dir) (sid : Sid) :
    s.story? sid = if sid = 9 then z else if sid = 7 then a else none := by
  simp only [State.story?, h, shelved_dir]
  split
  · rfl
  · split <;> rfl

theorem shelved_stories (a z : Option Story) (store : List Block) (s : State)
    (h : s.baskets = (shelved a z store).baskets) (b : BasketNo) :
    s.stories b = (if a.bind (fun st => st.place.basket?) = some b then [7] else []) ++
      (if z.bind (fun st => st.place.basket?) = some b then [9] else []) := by
  simp [State.stories, h, shelved]

/-- No line holds a story of the shelf that stands elsewhere. -/
theorem heldBy_shelved (a z : Option Story) (store : List Block) (s : State) (l : LineNo) (hd : s.dir = (shelved a z store).dir)
    (ha : ∀ st, a = some st → st.place.isHeldBy l = false) (hz : ∀ st, z = some st → st.place.isHeldBy l = false) :
    s.heldBy l = none := by
  rw [State.heldBy, List.find?_eq_none]
  intro sid _
  rw [hd, shelved_dir]
  have other : ∀ x : Option Story, (∀ st, x = some st → st.place.isHeldBy l = false) →
      ¬ Rec.isHeldBy l { gen := 1, story := x } = true := by
    intro x hx
    cases x with
    | none => exact Bool.false_ne_true
    | some st => rw [show Rec.isHeldBy l { gen := 1, story := some st } = st.place.isHeldBy l from rfl, hx st rfl]; decide
  split
  · exact other z hz
  · split
    · exact other a ha
    · exact Bool.false_ne_true

/-- The story at the head of a view, in a basket with stories in it and in one with none. -/
theorem view_head (s : State) (b : BasketNo) (sid : Sid) (more : List Sid) (h : s.stories b = sid :: more) :
    (s.viewOf { basket := some b, top := 0, highlight := 0 })[0]? = some sid := by
  simp [State.viewOf, State.viewList, h]

theorem view_head_out (s : State) (h : s.stories 3 = []) :
    (s.viewOf { basket := some 3, top := 0, highlight := 0 })[0]? =
      (List.finRange 512).find? fun sid => (s.story? sid).any fun st => st.home == 3 && st.place.isOut := by
  simp only [State.viewOf, State.viewList, Option.elim_some, h, List.nil_append, State.outPart]
  rw [if_neg (by decide), ← List.head?_eq_getElem?, List.head?_filter]

theorem view_head_held (a : Story) (store : List Block) (s : State) (hd : s.dir = (shelved (some a) none store).dir)
    (hb : s.baskets = (shelved (some a) none store).baskets) (h : a.place.basket? = none)
    (ho : (a.home == 3 && a.place.isOut) = true) :
    (s.viewOf { basket := some 3, top := 0, highlight := 0 })[0]? = some 7 := by
  rw [view_head_out s (by rw [shelved_stories (some a) none store s hb]; simp [h])]
  have e : (fun sid => (s.story? sid).any fun st => st.home == 3 && st.place.isOut) = fun sid => sid == (7 : Sid) := by
    funext sid
    rw [shelved_story (some a) none store s hd]
    by_cases h7 : sid = 7
    · subst h7; exact ho
    · by_cases h9 : sid = 9 <;> simp [h7, h9]
  rw [e]; decide +kernel

/-- A home, and a basket a story is OPEN in, of an URGENT story on the shelf. -/
def atDesk (st : Story) : Prop := st.home.val ≤ 22 ∧ (∀ b, st.place = .opn b → b.val ≤ 22) ∧ st.prio = .urgent

theorem shelved_cases (a z : Option Story) (store : List Block) (s : State) (h : s.dir = (shelved a z store).dir) (sid : Sid)
    (st : Story) (hs : s.story? sid = some st) : (sid = 7 ∧ a = some st) ∨ (sid = 9 ∧ z = some st) := by
  rw [shelved_story a z store s h] at hs
  split at hs
  · exact .inr ⟨‹_›, hs⟩
  · split at hs
    · exact .inl ⟨‹_›, hs⟩
    · cases hs

/-- The two stories' baskets are in their form. -/
theorem basket_form (a z : Option Story) (store : List Block) (s : State) (hd : s.dir = (shelved a z store).dir)
    (hb : s.baskets = (shelved a z store).baskets) (ha : ∀ st, a = some st → atDesk st) (hz : ∀ st, z = some st → atDesk st) :
    BasketForm s := by
  have desks : ∀ (sid : Sid) st, s.story? sid = some st → atDesk st := fun sid st h =>
    (shelved_cases a z store s hd sid st h).elim (fun x => ha st x.2) fun x => hz st x.2
  have prio : ∀ (b : BasketNo) (x : Sid), x ∈ s.stories b → s.prio x = .urgent := fun b x hx => by
    have hs : ∃ st, s.story? x = some st := by
      rw [shelved_stories a z store s hb] at hx
      rw [shelved_story a z store s hd]
      rcases List.mem_append.1 hx with h | h <;> split at h
      · rename_i e
        rw [List.mem_singleton.1 h, if_neg (by decide), if_pos rfl]
        cases a with
        | none => cases e
        | some st => exact ⟨st, rfl⟩
      · cases h
      · rename_i e
        rw [List.mem_singleton.1 h, if_pos rfl]
        cases z with
        | none => cases e
        | some st => exact ⟨st, rfl⟩
      · cases h
    obtain ⟨st, hs⟩ := hs
    rw [State.prio, hs]; exact (desks x st hs).2.2
  refine ⟨fun b sid => ?_, fun b => ?_, fun b _ => ?_, fun sid st h => ⟨(desks sid st h).1, (desks sid st h).2.1⟩⟩
  · rw [shelved_stories a z store s hb, shelved_story a z store s hd]
    by_cases h9 : sid = 9
    · subst h9
      simp [show ¬ (9 : Sid) = 7 by decide]
    · by_cases h7 : sid = 7 <;> simp [h7, h9]
  · rw [shelved_stories a z store s hb]
    split <;> split <;> simp
  · exact List.pairwise_of_forall_mem_list fun x hx y hy => by rw [prio b x hx, prio b y hy]

/-- With no alert on any session. -/
theorem alert_form (s : State) (none' : ∀ (l : LineNo) ss, s.session? l = some ss → ss.alert = none) : AlertForm s :=
  fun l ss a h ha => by rw [none' l ss h] at ha; cases ha

/-- The directory form of the two stories, from its parts. -/
theorem directory_form (a z : Option Story) (store : List Block) (s : State) (hd : s.dir = (shelved a z store).dir)
    (hb : s.baskets = (shelved a z store).baskets) (ha : ∀ st, a = some st → atDesk st) (hz : ∀ st, z = some st → atDesk st)
    (holds : HoldForm s) (items : ItemForm s) (jobs : JobForm s) (alerts : ∀ (l : LineNo) ss, s.session? l = some ss → ss.alert = none)
    (load : s.loader.loading = false) : DirectoryForm s :=
  ⟨basket_form a z store s hd hb ha hz, holds, items, jobs, alert_form s alerts,
    ⟨fun h => (by rw [load] at h; cases h), fun h => (by rw [load] at h; cases h), fun h => (by rw [load] at h; cases h),
      fun h => (by rw [load] at h; cases h)⟩⟩

/-- With no session in EDIT, and no story held but one by the line of a session that is signed on. -/
theorem hold_form (s : State) (sid : Sid) (l : LineNo) (edits : ∀ (l : LineNo) ss, s.session? l = some ss → ss.state ≠ .edit)
    (held : ∀ (x : Sid) st (m : LineNo), s.story? x = some st → st.place = .held m →
      x = sid ∧ m = l ∧ ∃ ss, s.session? l = some ss ∧ ss.state ≠ .dark) : HoldForm s :=
  ⟨fun l ss _ h he => absurd he (edits l ss h), fun x st m h hp => (by obtain ⟨_, rfl, e⟩ := held x st m h hp; exact e),
    fun x y sx sy m hx hy px py => (held x sx m hx px).1.trans (held y sy m hy py).1.symm⟩

/-- With no item in hand and no story in INTAKE. -/
theorem item_form (s : State) (none' : ∀ (l : LineNo) ik, s.intake? l = some ik → ik.item = none)
    (stories : ∀ (x : Sid) st, s.story? x = some st → st.place ≠ .intake) : ItemForm s :=
  ⟨fun l ik it h hi => (by rw [none' l ik h] at hi; cases hi), fun l m ik im it jt h _ hi => (by rw [none' l ik h] at hi; cases hi),
    fun x st h hp => absurd hp (stories x st h)⟩

/-- With both set queues empty and no story QUEUED or SETTING. -/
theorem job_form (s : State) (queues : ∀ ch, (s.chan ch).queue = [])
    (stories : ∀ (x : Sid) st, s.story? x = some st → st.place.job? = none) : JobForm s := by
  refine ⟨fun ch j h => ?_, ?_, fun x st ch n h hp => ?_, fun ch j h => ?_, fun ch j r h => ?_,
    fun ch j r h => ?_⟩
  · rw [queues] at h; cases h
  · rw [show s.chanA.queue = [] from queues .a, show s.chanB.queue = [] from queues .b]; exact List.nodup_nil
  · have := stories x st h
    rcases hp with hp | hp <;> rw [hp] at this <;> cases this
  · rw [queues] at h; cases h
  · rw [Channel.job?, queues] at h; cases h
  · rw [Channel.job?, queues] at h; cases h

/-- The two stories' store form, when their chains share the store's blocks between them. -/
theorem store_form (a z : Story) (store : List Block) (s : State) (hd : s.dir = (shelved (some a) (some z) store).dir)
    (hs : s.store = store) (wf : storeWf store = true) (low : ∀ b ∈ store.map Prod.fst, b < 4096)
    (mem : ∀ b, b ∈ store.map Prod.fst ↔ b ∈ a.chain ∨ b ∈ z.chain) (apart : ∀ b ∈ a.chain, b ∉ z.chain)
    (oa : a.chain.Nodup) (oz : z.chain.Nodup) (ca : a.count = (chainText store a.chain).length)
    (cz : z.count = (chainText store z.chain).length) : StoreForm s := by
  have chain : ∀ sid : Sid, s.chainOf sid = if sid = 9 then z.chain else if sid = 7 then a.chain else [] := by
    intro sid
    rw [State.chainOf, shelved_story _ _ store s hd]
    split
    · rfl
    · split <;> rfl
  refine ⟨hs ▸ wf, fun sid b hb => ?_, fun b => ?_, fun x y b hx hy => ?_, fun sid => ?_, fun sid st h => ?_⟩
  · rw [chain] at hb
    split at hb
    · exact low b ((mem b).2 (.inr hb))
    · split at hb
      · exact low b ((mem b).2 (.inl hb))
      · cases hb
  · rw [hs, mem]
    constructor
    · rintro (h | h)
      · exact ⟨7, by rw [chain]; simpa [show ¬ (7 : Sid) = 9 by decide] using h⟩
      · exact ⟨9, by rw [chain]; simpa using h⟩
    · rintro ⟨sid, h⟩
      rw [chain] at h
      split at h
      · exact .inr h
      · split at h
        · exact .inl h
        · cases h
  · have key : ∀ sid, b ∈ s.chainOf sid → (sid = 9 ∧ b ∈ z.chain) ∨ (sid = 7 ∧ b ∈ a.chain) := fun sid h => by
      rw [chain] at h
      split at h
      · exact .inl ⟨‹_›, h⟩
      · split at h
        · exact .inr ⟨‹_›, h⟩
        · cases h
    rcases key x hx with ⟨rfl, kx⟩ | ⟨rfl, kx⟩ <;> rcases key y hy with ⟨rfl, ky⟩ | ⟨rfl, ky⟩
    · rfl
    · exact absurd kx (apart b ky)
    · exact absurd ky (apart b kx)
    · rfl
  · rw [chain]
    split
    · exact oz
    · split
      · exact oa
      · exact List.nodup_nil
  · rw [State.text, chain, hs]
    rw [shelved_story _ _ store s hd] at h
    split at h
    · rename_i h9; cases h; simpa [h9] using cz
    · rename_i h9
      split at h
      · rename_i h7; cases h; simpa [h7, show ¬ (7 : Sid) = 9 by decide] using ca
      · cases h

theorem up_owner (l : LineNo) : up.session? l = none ∧ up.intake? l = none := by
  simp [State.session?, State.intake?, Owner.session?, Owner.intake?, up, State.reset, State.atPowerStart, LineRec.powerStart]

/-- A line that is set is the only one whose owner can change. -/
theorem setLine_owner (s : State) (k l : LineNo) (r : LineRec) (h : l ≠ k) :
    (s.setLine k r).session? l = s.session? l ∧ (s.setLine k r).intake? l = s.intake? l := by
  have e : k.val ≠ l.val := fun e => h (Fin.ext e.symm)
  simp [State.session?, State.intake?, State.setLine, e]

/-- With one line in use the limits on roles are kept. -/
theorem roles_limited_one (k : LineNo) (r : LineRec) (s : State) (h : s.lines = (up.setLine k r).lines) : RolesLimited s := by
  have one : ∀ k : LineNo, (List.finRange 40).countP (fun m => m == k) ≤ 1 := by decide
  have le : ∀ x : Role, x ≠ .idle → s.linesWith x ≤ 1 := by
    intro x hx
    refine Nat.le_trans ?_ (one k)
    rw [State.linesWith]
    refine List.countP_mono_left fun m _ hm => ?_
    by_cases hk : m = k
    · simp [hk]
    · have ne : k.val ≠ m.val := fun e => hk (Fin.ext e.symm)
      simp [h, State.setLine, ne, up, State.reset, State.atPowerStart, LineRec.powerStart, Owner.role] at hm
      exact absurd hm.symm hx
  intro role
  cases role
  · exact Nat.le_trans List.countP_le_length (by decide)
  all_goals exact Nat.le_trans (le _ (by decide)) (by decide)

/-- A story on the shelf that stands in a basket. -/
def inBasket (st : Story) : Prop := atDesk st ∧ st.place.basket?.isSome = true

theorem inBasket.apart {st : Story} (h : inBasket st) :
    (∀ m, st.place ≠ .held m) ∧ st.place ≠ .intake ∧ st.place.job? = none := by
  have h := h.2
  cases hp : st.place <;> simp_all [Place.basket?, Place.job?]

/-- The directory form of two stories in baskets on a machine with no session in EDIT, no item in hand and no job queued. -/
theorem directory_form_quiet (a z : Option Story) (store : List Block) (s : State) (hd : s.dir = (shelved a z store).dir)
    (hb : s.baskets = (shelved a z store).baskets) (ha : ∀ st, a = some st → inBasket st) (hz : ∀ st, z = some st → inBasket st)
    (seats : ∀ (l : LineNo) ss, s.session? l = some ss → ss.state ≠ .edit ∧ ss.alert = none)
    (items : ∀ (l : LineNo) ik, s.intake? l = some ik → ik.item = none) (queues : ∀ ch, (s.chan ch).queue = [])
    (load : s.loader.loading = false) : DirectoryForm s := by
  have stand : ∀ (x : Sid) st, s.story? x = some st → inBasket st := fun x st h =>
    (shelved_cases a z store s hd x st h).elim (fun e => ha st e.2) fun e => hz st e.2
  exact directory_form a z store s hd hb (fun st h => (ha st h).1) (fun st h => (hz st h).1)
    (hold_form s 0 0 (fun l ss h => (seats l ss h).1) fun x st m h hp => absurd hp ((stand x st h).apart.1 m))
    (item_form s items fun x st h => (stand x st h).apart.2.1) (job_form s queues fun x st h => (stand x st h).apart.2.2)
    (fun l ss h => (seats l ss h).2) load

/-- The same with the machine's lines idle. -/
theorem directory_form_idle (a z : Option Story) (store : List Block) (host : HostChan) (ha : ∀ st, a = some st → inBasket st)
    (hz : ∀ st, z = some st → inBasket st) : DirectoryForm { shelved a z store with host := host } := by
  refine directory_form_quiet a z store _ rfl rfl ha hz (fun l ss h => ?_) (fun l ik h => ?_) (fun ch => by cases ch <;> rfl) rfl
  · have h' : up.session? l = some ss := h
    rw [(up_owner l).1] at h'; cases h'
  · have h' : up.intake? l = some ik := h
    rw [(up_owner l).2] at h'; cases h'

/-- The same with channel A in a state with no job queued. -/
theorem directory_form_idle_queue (st : ChanState) (a z : Option Story) (host : HostChan) (ha : ∀ st, a = some st → inBasket st)
    (hz : ∀ st, z = some st → inBasket st) :
    DirectoryForm { shelved a z [] with chanA := { Channel.powerStart with state := st, queue := [] }, host := host } := by
  have h := directory_form_idle a z [] host ha hz
  refine ⟨⟨h.baskets.listed, h.baskets.once, h.baskets.bands, h.baskets.desks⟩, ⟨h.holds.edits, h.holds.holders, h.holds.once⟩,
    ⟨h.items.items, h.items.apart, h.items.stories⟩, job_form _ (fun ch => by cases ch <;> rfl) fun x sx hx => ?_,
    h.alerts, ⟨h.load.free, h.load.idle, fun hl => (by cases hl), h.load.port⟩⟩
  exact (shelved_cases a z [] _ rfl x sx hx).elim (fun e => (ha sx e.2).apart.2.2) fun e => (hz sx e.2).apart.2.2

theorem desk_owner (ss : Session) (s : State) (hs : s.lines = up.lines) (l : LineNo) :
    ((desk ss s).session? l = if l = 5 then some ss else none) ∧ (desk ss s).intake? l = none := by
  by_cases hl : l = 5
  · subst hl; exact ⟨session_desk ss s, by simp [desk, State.setLine, State.intake?, Owner.intake?]⟩
  · rw [if_neg hl, desk, (setLine_owner _ _ _ _ hl).1, (setLine_owner _ _ _ _ hl).2]
    have := up_owner l
    rw [State.session?, State.intake?] at this ⊢
    rw [hs]; exact this

/-- The same with a session on L5 that is not in EDIT, and a story of the shelf that L5, signed on, may hold. -/
theorem directory_form_desk (ss : Session) (h5 : ss.state ≠ .edit) (a z : Option Story) (store : List Block) (host : HostChan)
    (ha : ∀ st, a = some st → inBasket st ∨ (atDesk st ∧ st.place = .held 5 ∧ ss.state ≠ .dark))
    (hz : ∀ st, z = some st → inBasket st) (quiet : ss.alert = none := by rfl) :
    DirectoryForm { desk ss (shelved a z store) with host := host } := by
  have owner : ∀ l : LineNo, (({ desk ss (shelved a z store) with host := host } : State).session? l =
      if l = 5 then some ss else none) ∧ ({ desk ss (shelved a z store) with host := host } : State).intake? l = none :=
    fun l => desk_owner ss (shelved a z store) rfl l
  have stand : ∀ (x : Sid) st, ({ desk ss (shelved a z store) with host := host } : State).story? x = some st →
      inBasket st ∨ (x = 7 ∧ st.place = .held 5 ∧ ss.state ≠ .dark) := fun x st h =>
    (shelved_cases a z store _ rfl x st h).elim (fun e => (ha st e.2).imp id fun k => ⟨e.1, k.2⟩) fun e => .inl (hz st e.2)
  refine directory_form a z store _ rfl rfl (fun st h => (ha st h).elim (·.1) (·.1)) (fun st h => (hz st h).1)
    (hold_form _ 7 5 (fun l sl h => ?_) fun x st m h hp => ?_)
    (item_form _ (fun l ik h => by rw [(owner l).2] at h; cases h) fun x st h => ?_)
    (job_form _ (fun ch => by cases ch <;> rfl) fun x st h => ?_) (fun l sl h => ?_) rfl
  · rw [(owner l).1] at h
    split at h
    · cases h; exact h5
    · cases h
  · rcases stand x st h with k | ⟨rfl, k, kd⟩
    · exact absurd hp (k.apart.1 m)
    · rw [k] at hp; cases hp
      exact ⟨rfl, rfl, ss, by rw [(owner 5).1]; rfl, kd⟩
  · rcases stand x st h with k | ⟨_, k, _⟩
    · exact k.apart.2.1
    · rw [k]; nofun
  · rcases stand x st h with k | ⟨_, k, _⟩
    · exact k.apart.2.2
    · rw [k]; rfl
  · rw [(owner l).1] at h
    split at h
    · cases h; exact quiet
    · cases h

/-- The same with an intake on L6 whose item is story 8 in INTAKE. -/
theorem directory_form_circuit (ik : Intake) (it : Item) (slot : Option RxChar) (a : Story) (z : Option Story) (store : List Block)
    (host : HostChan) (hp : a.place = .intake) (hs : ik.state = .body) (hi : ik.item = some it)
    (hk : it.key = { sid := 7, gen := 1 }) (ha : atDesk a) (hz : ∀ st, z = some st → inBasket st) :
    DirectoryForm { circuit ik slot (shelved (some a) z store) with host := host } := by
  have owner : ∀ l : LineNo, ({ circuit ik slot (shelved (some a) z store) with host := host } : State).session? l = none ∧
      ({ circuit ik slot (shelved (some a) z store) with host := host } : State).intake? l = if l = 6 then some ik else none :=
    fun l => by
      by_cases hl : l = 6
      · subst hl; exact ⟨rfl, rfl⟩
      · have h' : (circuit ik slot up).session? l = none ∧ (circuit ik slot up).intake? l = none := by
          rw [circuit, (setLine_owner _ _ _ _ hl).1, (setLine_owner _ _ _ _ hl).2]; exact up_owner l
        rw [if_neg hl]; exact h'
  have stand : ∀ (x : Sid) st, ({ circuit ik slot (shelved (some a) z store) with host := host } : State).story? x = some st →
      inBasket st ∨ (x = 7 ∧ st = a) := fun x st h =>
    (shelved_cases (some a) z store _ rfl x st h).elim (fun e => .inr ⟨e.1, (Option.some.inj e.2).symm⟩) fun e => .inl (hz st e.2)
  have here : ∀ (l : LineNo) im jt, ({ circuit ik slot (shelved (some a) z store) with host := host } : State).intake? l = some im →
      im.item = some jt → l = 6 ∧ im = ik ∧ jt = it := fun l im jt h hj => by
    rw [(owner l).2] at h
    split at h
    · cases h; rw [hi] at hj; exact ⟨‹_›, rfl, (Option.some.inj hj).symm⟩
    · cases h
  refine directory_form (some a) z store _ rfl rfl (fun st h => by cases h; exact ha) (fun st h => (hz st h).1)
    (hold_form _ 7 5 (fun l sl h => by rw [(owner l).1] at h; cases h) fun x st m h hm => ?_)
    ⟨fun l im jt h hj => ?_, fun l m ik im it jt h h' hj hj' _ => ?_, fun x st h hx => ?_⟩
    (job_form _ (fun ch => by cases ch <;> rfl) fun x st h => ?_) (fun l sl h => by rw [(owner l).1] at h; cases h) rfl
  · rcases stand x st h with k | ⟨_, rfl⟩
    · exact absurd hm (k.apart.1 m)
    · rw [hp] at hm; cases hm
  · obtain ⟨_, rfl, rfl⟩ := here l im jt h hj
    refine ⟨hs, ?_⟩
    rw [hk]; exact congrArg some hp
  · rw [(here l ik it h hj).1, (here m im jt h' hj').1]
  · rcases stand x st h with k | ⟨rfl, rfl⟩
    · exact absurd hx k.apart.2.1
    · exact ⟨6, ik, it, by rw [(owner 6).2]; rfl, hi, hk⟩
  · rcases stand x st h with k | ⟨_, rfl⟩
    · exact k.apart.2.2
    · rw [hp]; rfl

/-- A story job for story 10, that waits. -/
def behind : Job :=
  { waiting 5 with segments := [{ key := { sid := 9, gen := 1 }, measure := 0, depth := 0, column := 0, top := 0 }] }

/-- The directory form with a session on L5: story 8 in a basket, or edited by that session; and story 10 in a basket, or QUEUED
under the one job that waits on channel A. -/
theorem directory_form_seat (ss : Session) (a : Story) (z : Option Story) (store : List Block) (q : List Job) (s : State)
    (hd : s.dir = (shelved (some a) z store).dir) (hb : s.baskets = (shelved (some a) z store).baskets)
    (hl : s.lines = (desk ss up).lines) (qa : s.chanA.queue = q) (qb : s.chanB.queue = []) (load : s.loader.loading = false)
    (quiet : ss.alert = none)
    (ha : (inBasket a ∧ ss.state ≠ .edit) ∨
      (atDesk a ∧ a.place = .held 5 ∧ ss.state = .edit ∧ ∀ e, ss.edit = some e → e.key = { sid := 7, gen := 1 }))
    (hz : (∀ st, z = some st → inBasket st) ∧ q = [] ∨ ∃ st, z = some st ∧ atDesk st ∧ st.place = .queued .a 5 ∧ q = [behind]) :
    DirectoryForm s := by
  have owner : ∀ l : LineNo, (s.session? l = if l = 5 then some ss else none) ∧ s.intake? l = none := fun l => by
    have := desk_owner ss up rfl l
    rw [State.session?, State.intake?] at this ⊢
    rw [hl]; exact this
  have mine : ∀ {l : LineNo} {sl}, s.session? l = some sl → l = 5 ∧ sl = ss := fun {l sl} h => by
    rw [(owner l).1] at h
    split at h
    · cases h; exact ⟨‹_›, rfl⟩
    · cases h
  have live : ∀ sid : Sid, (sid = 7 ∨ sid = 9) → s.live? { sid := sid, gen := 1 } = if sid = 9 then z else some a := fun sid h => by
    have hg : s.dir[sid].gen = 1 := by rw [hd, shelved_dir]; rcases h with rfl | rfl <;> rfl
    rw [State.live?, if_pos hg, shelved_story _ _ store s hd]
    rcases h with rfl | rfl <;> rfl
  have desks : ∀ st, z = some st → atDesk st := fun st h =>
    hz.elim (fun k => (k.1 st h).1) fun ⟨st', h', k, _⟩ => by rw [h'] at h; cases h; exact k
  have stand : ∀ (x : Sid) st, s.story? x = some st →
      inBasket st ∨ (x = 7 ∧ st = a ∧ a.place = .held 5 ∧ ss.state = .edit) ∨ (x = 9 ∧ st.place = .queued .a 5 ∧ q = [behind]) :=
    fun x st h => by
      rcases shelved_cases (some a) z store s hd x st h with ⟨rfl, k⟩ | ⟨rfl, k⟩
      · cases k; exact ha.elim (fun k => .inl k.1) fun k => .inr (.inl ⟨rfl, rfl, k.2.1, k.2.2.1⟩)
      · exact hz.elim (fun w => .inl (w.1 st k)) fun ⟨st', h', w⟩ => by rw [h'] at k; cases k; exact .inr (.inr ⟨rfl, w.2⟩)
  have jobs : ∀ ch, (s.chan ch).queue = [] ∨ (ch = .a ∧ (s.chan ch).queue = [behind] ∧ q = [behind]) := fun ch => by
    cases ch
    · rcases hz with ⟨_, rfl⟩ | ⟨st, _, _, _, rfl⟩
      · exact .inl qa
      · exact .inr ⟨rfl, qa, rfl⟩
    · exact .inl qb
  have idle : ∀ ch, (s.chan ch).job? = none := fun ch => by
    rcases jobs ch with h | ⟨_, h, _⟩ <;> rw [Channel.job?, h] <;> rfl
  refine directory_form (some a) z store s hd hb (fun st h => by cases h; exact ha.elim (fun k => k.1.1) (·.1)) desks
    ⟨fun l sl e h he hx => ?_, fun x st m h hp => ?_, fun x y sx sy m hx hy px py => ?_⟩
    (item_form s (fun l ik h => by rw [(owner l).2] at h; cases h) fun x st h => ?_)
    ⟨fun ch j h => ?_, ?_, fun x st ch n h hp => ?_, fun ch j h => ?_, fun ch j r h => ?_, fun ch j r h => ?_⟩
    (fun l sl h => by rw [(mine h).2]; exact quiet) load
  · obtain ⟨rfl, rfl⟩ := mine h
    rcases ha with ⟨_, k⟩ | ⟨_, k, _, ke⟩
    · exact absurd he k
    · rw [ke e hx]; exact ⟨a, live 7 (.inl rfl), k⟩
  · rcases stand x st h with k | ⟨rfl, rfl, k, ke⟩ | ⟨_, k, _⟩
    · exact absurd hp (k.apart.1 m)
    · rw [k] at hp; cases hp
      exact ⟨ss, by rw [(owner 5).1]; rfl, by rw [ke]; decide⟩
    · rw [k] at hp; cases hp
  · have key : ∀ (x : Sid) st, s.story? x = some st → st.place = .held m → x = 7 := fun x st h hp => by
      rcases stand x st h with k | ⟨rfl, _⟩ | ⟨_, k, _⟩
      · exact absurd hp (k.apart.1 m)
      · rfl
      · rw [k] at hp; cases hp
    rw [key x sx hx px, key y sy hy py]
  · rcases stand x st h with k | ⟨_, rfl, k, _⟩ | ⟨_, k, _⟩
    · exact k.apart.2.1
    · rw [k]; nofun
    · rw [k]; nofun
  · rcases jobs ch with e | ⟨rfl, e, eq⟩
    · rw [e] at h; cases h
    · rw [e] at h
      obtain rfl := List.mem_singleton.1 h
      refine ⟨by decide, fun b hb => by cases hb; decide, fun g hg => ?_⟩
      obtain rfl := List.mem_singleton.1 hg
      rcases hz with ⟨_, k⟩ | ⟨st, rfl, _, k, _⟩
      · rw [k] at eq; cases eq
      · rw [live 9 (.inr rfl), if_pos rfl]; exact congrArg some k
  · rw [show s.chanA.queue = q from qa, qb]
    rcases hz with ⟨_, rfl⟩ | ⟨_, _, _, _, rfl⟩
    · exact List.nodup_nil
    · exact List.nodup_singleton _
  · rcases stand x st h with k | ⟨_, rfl, k, _⟩ | ⟨rfl, k, eq⟩
    · have := k.apart.2.2
      rcases hp with hp | hp <;> rw [hp] at this <;> cases this
    · rcases hp with hp | hp <;> rw [k] at hp <;> cases hp
    · rcases hp with hp | hp <;> rw [k] at hp <;> cases hp
      refine ⟨behind, by show behind ∈ s.chanA.queue; rw [qa, eq]; exact List.mem_singleton_self _, k, _, List.mem_singleton_self _, ?_⟩
      show _ = Key.mk 9 s.dir[(9 : Sid)].gen
      rw [hd, shelved_dir]; rfl
  · rcases jobs ch with e | ⟨_, e, _⟩ <;> rw [e] at h <;> cases h
  · rw [idle ch] at h; cases h
  · rw [idle ch] at h; cases h

/-- The state an event leaves. -/
def after (c : Instr) (s : State) : State :=
  match exec c s with
  | .next t => t
  | _ => s

/-! ## Well-formedness and words -/

/-- L40 is no line position (R44). -/
theorem test_line_40_is_ill_formed : (Instr.keyOff 40).wellFormed = false := by decide

theorem test_line_39_is_well_formed : (Instr.keyOff 39).wellFormed = true := by decide

theorem test_no_word_spells_a_command : decodeTableWord 8 0x01 = none := by decide

/-- A command that names no line position leaves the state as it is (log 1). -/
theorem test_ill_formed_changes_nothing : exec (.keyOff 40) up = .next up := rfl

/-! ## States that meet the hypotheses: the machine, the port and the image -/

theorem test_met_step : ({ up with pending := [.status] }).pending = .status :: [] ∧ up.pending = [] := ⟨rfl, rfl⟩

/-- The invariants hold of the state after reset but for what a prover shows; here the two of the stores. -/
theorem test_met_store_form : StoreForm State.reset := by
  have empty : ∀ sid : Sid, State.reset.chainOf sid = [] := fun sid => by
    simp [State.chainOf, State.story?, State.reset, State.atPowerStart]
  refine ⟨rfl, fun sid b hb => ?_, fun b => ⟨fun h => (by cases h), fun ⟨sid, h⟩ => ?_⟩, fun x y b hx => ?_, fun sid => ?_,
    fun sid st h => ?_⟩
  · rw [empty] at hb; cases hb
  · rw [empty] at h; cases h
  · rw [empty] at hx; cases hx
  · rw [empty]; exact List.nodup_nil
  · simp [State.story?, State.reset, State.atPowerStart] at h

theorem test_met_directory_form : DirectoryForm State.reset := by
  have lines : ∀ l : LineNo, State.reset.lines[l] = LineRec.powerStart := fun l => by simp [State.reset, State.atPowerStart]
  have none' : ∀ sid : Sid, State.reset.story? sid = none := fun sid => by simp [State.story?, State.reset, State.atPowerStart]
  refine ⟨⟨fun b sid => ?_, fun b => ?_, fun b _ => ?_, fun sid st h => ?_⟩,
    hold_form _ 0 0 (fun l ss h => ?_) fun x st m h => ?_, item_form _ (fun l ik h => ?_) fun x st h => ?_,
    job_form _ (fun ch => by cases ch <;> rfl) fun x st h => ?_,
    (alert_form _ fun l ss h => by rw [State.session?, lines] at h; cases h), ⟨fun _ => none', fun _ l => by rw [lines]; rfl, fun _ ch => by cases ch <;> rfl, fun _ => ⟨rfl, rfl, rfl⟩⟩⟩
  · simp [State.stories, State.story?, State.reset, State.atPowerStart]
  · simp [State.stories, State.reset, State.atPowerStart]
  · simp [State.stories, State.reset, State.atPowerStart]
  · rw [none'] at h; cases h
  · simp [State.session?, lines, LineRec.powerStart, Owner.session?] at h
  · rw [none'] at h; cases h
  · simp [State.intake?, lines, LineRec.powerStart, Owner.intake?] at h
  · rw [none'] at h; cases h
  · rw [none'] at h; cases h

theorem test_met_eeprom_form : EepromForm State.reset := ⟨rfl, fun f a w h => by cases h⟩

theorem test_met_notice_form : NoticeForm State.reset := ⟨by decide, List.Pairwise.nil⟩

theorem test_met_settled : Settled State.reset := by
  refine ⟨?_, ?_, ?_, ?_, ?_, ?_⟩ <;> intros <;>
    simp_all [State.reset, State.atPowerStart, State.session?, LineRec.powerStart, Owner.session?]

theorem test_met_role_limits : RolesLimited State.reset := roles_limited_one 39 LineRec.powerStart _ (by decide +kernel)

theorem test_met_bounds : Bounded State.reset := by
  have lines : ∀ l : LineNo, State.reset.lines[l] = LineRec.powerStart := fun l => by simp [State.reset, State.atPowerStart]
  refine ⟨⟨by decide, by decide, by decide⟩, fun ch => ?_, fun sid st h => ?_, fun sid => ?_, fun l ss h => ?_, fun l ik h => ?_,
    fun l => ?_, by decide, fun l => ?_⟩
  · cases ch <;> exact ⟨by decide, by decide, by decide⟩
  · simp [State.reset, State.atPowerStart, State.story?] at h
  · simp [State.reset, State.atPowerStart]
  · simp [State.session?, lines, LineRec.powerStart, Owner.session?] at h
  · simp [State.intake?, lines, LineRec.powerStart, Owner.intake?] at h
  · simp [lines, LineRec.powerStart]
  · simp [lines, LineRec.powerStart]

theorem test_met_power_start : State.reset.host.active = none := rfl

theorem test_met_image_load : State.reset.loader.loading = true ∧ checkImage State.reset.eeprom = .signature := ⟨rfl, rfl⟩

/-- The minimal image of section 12.5.1. -/
def minimal : List (Nat × Word) :=
  [(0, 0xA001), (1, 0x0014), (2, 0), (3, 0), (4, 0), (5, 0), (6, 0), (7, 0), (8, 0), (9, 0), (10, 0x0010), (11, 0), (12, 0),
   (13, 0), (14, 0), (15, 0xBBF4), (16, 3), (17, 0x14), (18, 6), (19, 4)]

/-- An image with one entry in each of sections 2 to 10; a word not listed reads 0xFFFF. -/
def image : List (Nat × Word) :=
  [(0, 0xa001), (1, 180), (2, 0), (3, 16), (4, 20), (5, 26), (6, 41), (7, 54), (8, 120), (9, 125), (10, 134), (11, 138), (12, 0), (13, 0), (14, 0), (15, 0x4536)] ++
  [(16, 3), (17, 5), (18, 0x803f), (19, 0x782)] ++
  [(20, 5), (21, 22), (22, 0x4e45), (23, 0x5753), (24, 0), (25, 0)] ++
  [(26, 14), (27, 2), (28, 0x4d2), (29, 0x4e45), (30, 0x5753), (31, 0), (32, 0), (33, 0), (34, 8), (35, 0), (36, 8), (37, 0), (38, 8), (39, 3), (40, 1)] ++
  [(41, 12), (42, 31)] ++
  [(54, 65), (55, 15)] ++
  [(120, 4), (121, 39), (122, 0x3ff), (123, 0x8000), (124, 30)] ++
  [(125, 8), (126, 1), (127, 7), (128, 255), (129, 255), (130, 0xfff), (131, 255), (132, 255), (133, 0x258)] ++
  [(134, 3), (135, 60), (136, 63), (137, 63)] ++
  [(138, 41), (139, 2)]

/-- The port's states: hunting, both buffers HELD, and a frame at each point of its length. -/
def port (b : Buf) : State := { up with host := { up.host with bufA := b } }

theorem test_met_inbound :
    up.host.toHost = false ∧ up.host.waiting = none ∧ up.withheld = false ∧ up.host.filling? = none ∧
    ({ up with host := { up.host with bufA := .held (fr 1 []) 0, bufB := .held (fr 1 []) 1 } }).withheld = true ∧
    (port (.filling [])).host.filling? = some (false, []) ∧ (port (.filling [])).withheld = false ∧
    (port (.filling [0])).host.filling? = some (false, [0]) ∧ ofBE16 0 1 < 2 ∧ ofBE16 0 2 = 2 ∧ ofBE16 4 2 = 1026 ∧
    1026 < ofBE16 4 3 ∧ (port (.filling [0, 2, 1])).host.filling? = some (false, [0, 2, 1]) ∧ [1].length + 1 ≤ ofBE16 0 2 ∧
    (port (.filling [0, 3, 1])).host.filling? = some (false, [0, 3, 1]) ∧ [1].length + 1 < ofBE16 0 3 := by decide

theorem test_met_port_events :
    (port (.filling [0, 2, 1])).host.filling? = some (false, [0, 2, 1]) ∧
    ({ up.host with toHost := true, out := some { rest := [1, 2], reply := true } }).out = some { rest := [1, 2], reply := true } := by
  decide

/-- A queue of 96 notices, no two of one line. -/
def full : HostChan := { HostChan.powerStart with notices := (List.range 96).map fun i => .storyPurged { sid := ⟨i % 512, by omega⟩, gen := 0 } }

theorem test_met_notices :
    (Notice.storyPurged { sid := 7, gen := 2 }).merges (.storyPurged { sid := 7, gen := 1 }) = true ∧
    (∀ m ∈ HostChan.powerStart.notices, (Notice.storeLow 1).merges m = false) ∧ HostChan.powerStart.notices.length < 96 ∧
    full.notices.length = 96 ∧ (∀ m ∈ full.notices, (Notice.storeLow 1).merges m = false) ∧
    (full.notices.take 95).length < 96 ∧ (asked 0x01 [] up).host.orderDue = true ∧ up.host.orderDue = false ∧
    ({ up.host with toHost := true, reply := some [1] } : HostChan).out = none := by decide +kernel

/-- IMAGE_STATE at the head of the queue with a reply waiting, and a reply beside another notice (R180, R187). -/
theorem test_met_image_state_first :
    let h (n : Notice) : HostChan := { HostChan.powerStart with toHost := true, reply := some [1], notices := [n] }
    (h (.imageState .valid)).out = none ∧ (h (.imageState .valid)).notices = .imageState .valid :: [] ∧
    (h (.storeLow 1)).reply = some [1] ∧ (∀ x, (h (.storeLow 1)).notices.head? ≠ some (.imageState x)) ∧
    (h (.storeLow 1)).overflow = false ∧ (asked 0x01 [] up).host.orderDue = true ∧ (∀ x, (asked 0x01 [] up).host.notices.head? ≠ some (.imageState x)) := by
  refine ⟨rfl, rfl, rfl, fun x h => ?_, rfl, by decide, fun x h => ?_⟩ <;> cases h

/-- Step 4 of 10.4.1: the reply to FIT, order 7, was made with the overflow flag clear, a drop has set the flag, and "Reply 7 goes
first, carrying the flag set"; the reply to STATUS that shows the flag and clears it goes as it was made (R181, R186). -/
theorem test_reply_carries_the_flag_of_a_drop :
    let fit : Frame := { kind := 0x20, tag := 7, body := [0, 212, 1] }
    let status : Frame := { kind := 0x01, tag := 9, body := [] }
    let h (f : Frame) (r : Res) : HostChan :=
      { full with notices := (.storeLow 1 :: full.notices), toHost := true, overflow := true, reply := some (replyFrame false f r []) }
    (h fit .taken).pump.out = some { rest := replyFrame true fit .taken [], reply := true } ∧
    (h status .done).pump.out = some { rest := replyFrame false status .done [], reply := true } ∧
    ({ h fit .taken with overflow := false } : HostChan).pump.out =
      some { rest := replyFrame false fit .taken [], reply := true } := by decide

theorem test_met_reply_after_a_drop :
    let h : HostChan :=
      { HostChan.powerStart with
        toHost := true, overflow := true, reply := some (replyFrame false (fr 0x20 []) .taken []), notices := [.storeLow 1] }
    h.out = none ∧ h.reply = some (replyFrame false (fr 0x20 []) .taken []) ∧ (∀ x, h.notices.head? ≠ some (.imageState x)) ∧
    h.overflow = true ∧ ¬ ((fr 0x20 []).kind = 0x01 ∧ Res.taken = .done) ∧ (fr 0x01 []).kind = 0x01 := by
  refine ⟨rfl, rfl, fun x h => ?_, rfl, by decide, rfl⟩; cases h

/-- IMAGE_STATE "is the first frame sent" although a reply waits (R187). -/
theorem test_image_state_goes_first :
    ({ HostChan.powerStart with toHost := true, reply := some [1], notices := [.imageState .valid] } : HostChan).pump.out =
      some { rest := (Notice.imageState .valid).frame false, reply := false } := by decide

theorem test_met_orders :
    (asked 0x01 [] up).nextOrder = some (fr 0x01 []) ∧ (∀ row ∈ orderRows, (fr 0xFF []).kind ≠ row.2) ∧
    (asked 0xFF [] up).nextOrder = some (fr 0xFF []) ∧
    ({ up with host := { up.host with bufA := .held { kind := 1, tag := 0, body := [] } 0 } }).nextOrder =
      some { kind := 1, tag := 0, body := [] } := by decide +kernel

/-- Story keys of number 0 and 513, of a FREE record, and of another generation, in orders whose bodies pass what comes before
the key check (R18). -/
theorem test_met_key_refusals :
    let s (k : Byte) (body : List Byte) := asked k body (filed (.opn 3))
    (s 0x13 [0, 0, 1]).nextOrder = some (fr 0x13 [0, 0, 1]) ∧ KeyBody 0x13 0 0 1 [0, 0, 1] ∧ ofBE16 0 0 = 0 ∧ 512 < ofBE16 2 1 ∧
    KeyBody 0x19 2 0 1 [0, 2, 0, 1] ∧ ofBE16 2 0 = (511 : Sid).val + 1 ∧ up.story? 511 = none ∧
    KeyBody 0x21 0 8 2 [0, 8, 2, 1, 0, 22] ∧ ofBE16 0 8 = (7 : Sid).val + 1 ∧ (s 0x21 []).story? 7 = some (story (.opn 3)) ∧
    (s 0x21 []).dir[(7 : Sid)].gen ≠ (2 : Byte).toNat ∧ (fr 0x21 []).tag ≠ 0 ∧ KeyBody 0x11 0 8 2 [0, 8, 2, 0, 1, 0x41] ∧
    KeyBody 0x12 0 8 2 [0, 8, 2, 0, 0, 0, 1] ∧ KeyBody 0x15 0 8 2 [0, 8, 2, 99, 9] ∧ KeyBody 0x16 0 8 2 [0, 8, 2, 9] := by
  refine ⟨(front_filed (.opn 3) _ _).next, .inl ⟨by decide, rfl⟩, rfl, by decide,
    .inr (.inr (.inr (.inr (.inr (.inl ⟨rfl, rfl⟩))))), rfl, by decide +kernel,
    .inr (.inr (.inr (.inr (.inr (.inr ⟨rfl, 1, 0, 22, rfl, by decide, by decide, .inr (by decide)⟩))))), rfl, rfl, ?_,
    by decide, .inr (.inl ⟨rfl, 0, 1, [0x41], [.char 0x41], rfl, by decide, by decide, rfl⟩),
    .inr (.inr (.inl ⟨rfl, 0, 0, 0, 1, rfl, by decide, by decide⟩)), .inr (.inr (.inr (.inl ⟨rfl, 99, 9, rfl⟩))),
    .inr (.inr (.inr (.inr (.inl ⟨rfl, 9, rfl⟩))))⟩
  rw [show (asked 0x21 [] (filed (.opn 3))).dir[(7 : Sid)] = _ from filed_dir (.opn 3)]; decide

theorem test_met_status : Front (asked 0x01 [] up) 0x01 (fr 0x01 []) ∧ (fr 0x01 []).body = [] := ⟨front_asked _ _ _ rfl, rfl⟩

/-! ## States that meet the hypotheses: lines and terminals -/

/-- Every line of a role but the one given. -/
def manned (o : Owner) : State := { up with lines := Vector.replicate 40 { LineRec.powerStart with owner := o } }

theorem test_met_line_role :
    Front (asked 0x02 [5, 1] up) 0x02 (fr 0x02 [5, 1]) ∧ lineOf 5 = some 5 ∧ lineOf 39 = some 39 ∧ lineOf 40 = none ∧
    up.lines[(5 : LineNo)].owner.role = roleOf 0 ∧ up.lines[(5 : LineNo)].owner.role ≠ roleOf 1 ∧
    up.othersWith 5 (roleOf 1) < (roleOf 1).limit ∧
    (manned .setter).lines[(5 : LineNo)].owner.role ≠ roleOf 1 ∧
    (roleOf 1).limit ≤ (manned (.terminal (Session.fresh 15))).othersWith 5 (roleOf 1) := by
  refine ⟨front_asked _ _ _ rfl, ?_⟩; decide +kernel

/-- LINE SET at the ends of its ranges, LINE TEST with each condition of the transmitter, and LINE STATUS (R49, R56, R57). -/
theorem test_met_line_orders :
    Front (asked 0x03 [39, 8, 0x0F, 0xFF, 7, 2, 2] up) 0x03 (fr 0x03 [39, 8, 0x0F, 0xFF, 7, 2, 2]) ∧ lineOf 39 = some 39 ∧
    (parityOf 2).isSome = true ∧ ofBE16 0x0F 0xFF ≤ 4095 ∧ 4095 < ofBE16 0x10 0 ∧ parityOf 3 = none ∧
    Front (asked 0x06 [39, 1, 0x55] up) 0x06 (fr 0x06 [39, 1, 0x55]) ∧ up.lines[(39 : LineNo)].owner = .idle ∧
    up.lines[(39 : LineNo)].holding = none ∧ up.lines[(39 : LineNo)].shift = none ∧
    (press up).lines[(7 : LineNo)].owner.role ≠ .idle ∧
    (List.replicate 63 (0x55 : Byte)).length < 64 ∧
    Front (asked 0x05 [39, 1] up) 0x05 (fr 0x05 [39, 1]) ∧ parseFlag 1 = some true := by
  refine ⟨front_asked _ _ _ rfl, rfl, rfl, by decide, by decide, rfl, front_asked _ _ _ rfl, rfl, rfl, rfl, by decide +kernel,
    by decide, front_asked _ _ _ rfl, rfl⟩

theorem test_met_line_reset :
    Front (asked 0x04 [5] (desk (seat .directory []) up)) 0x04 (fr 0x04 [5]) ∧
    (asked 0x04 [5] (desk (seat .directory []) up)).session? 5 = some (seat .directory []) ∧
    (asked 0x04 [6] (circuit Intake.initial none up)).intake? 6 = some Intake.initial ∧
    (asked 0x04 [7] (press up)).boundChan 7 = some .a ∧ (asked 0x04 [7] (press up)).lines[(7 : LineNo)].owner = .setter ∧
    lineOf 40 = none := by
  refine ⟨front_asked _ _ _ rfl, session_desk _ _, rfl, ?_, rfl, rfl⟩; decide +kernel

/-- The machine with the job of story 8 running on channel A. -/
def runIn (ph : Phase) : Run :=
  { formats := [.default 0], widths := zeroWidths, params := .default, segs := [SegRun.start], fitSeg := 0,
    fitter := Fitter.start, lastFont := 0, lastSize := 18, seg := none, line := 0, codes := [], counts := .zero, phase := ph }

/-- A channel A that runs the job with a run. -/
def runningAs (r : Run) (s : State) : State :=
  s.setChan .a { Channel.powerStart with state := .running, reason := none, flow := true, queue := [job], run := some r }

/-- A channel A that runs the job in a phase. -/
def running (ph : Phase) (s : State) : State := runningAs (runIn ph) s

theorem press_owner (l : LineNo) : (press up).session? l = none ∧ (press up).intake? l = none := by
  by_cases h : l = 7
  · subst h; exact ⟨rfl, rfl⟩
  · rw [press, (setLine_owner _ _ _ _ h).1, (setLine_owner _ _ _ _ h).2]; exact up_owner l

/-- The directory form with the job of story 8 running on channel A, bound to L7. -/
theorem directory_form_running (ph : Phase) (host : HostChan)
    (rest : ({ running ph (press (shelved (some (story (.setting .a 1))) none [])) with host := host } : State).jobAtRest .a) :
    DirectoryForm { running ph (press (shelved (some (story (.setting .a 1))) none [])) with host := host } := by
  have owner : ∀ l : LineNo,
      ({ running ph (press (shelved (some (story (.setting .a 1))) none [])) with host := host } : State).session? l = none ∧
      ({ running ph (press (shelved (some (story (.setting .a 1))) none [])) with host := host } : State).intake? l = none :=
    fun l => press_owner l
  have stand : ∀ (x : Sid) st,
      ({ running ph (press (shelved (some (story (.setting .a 1))) none [])) with host := host } : State).story? x = some st →
      x = 7 ∧ st = story (.setting .a 1) := fun x st h =>
    (shelved_cases (some (story (.setting .a 1))) none [] _ rfl x st h).elim (fun e => ⟨e.1, (Option.some.inj e.2).symm⟩)
      fun e => by cases e.2
  refine directory_form (some (story (.setting .a 1))) none [] _ rfl rfl ?_ ?_
    (hold_form _ 0 0 (fun l ss h => by rw [(owner l).1] at h; cases h) fun x st m h hp => ?_)
    (item_form _ (fun l ik h => by rw [(owner l).2] at h; cases h) fun x st h => ?_)
    ⟨fun ch j h => ?_, List.nodup_singleton _, fun x st ch n h hp => ?_, fun ch j h => ?_, fun ch j r hj hr => ?_,
      fun ch => ?_⟩ (fun l ss h => by rw [(owner l).1] at h; cases h) rfl
  · intro st h; cases h; exact ⟨by decide, fun b h => (by cases h), rfl⟩
  · intro st h; cases h
  · rw [(stand x st h).2] at hp; cases hp
  · rw [(stand x st h).2]; nofun
  · cases ch
    · have : j ∈ [job] := h
      rw [List.mem_singleton] at this; subst this
      refine ⟨by decide, fun b h => by cases h; decide, fun g hg => ?_⟩
      have : g = { key := { sid := 7, gen := 1 }, measure := 0, depth := 0, column := 0, top := 0 } := List.mem_singleton.1 hg
      subst this; rfl
    · cases h
  · obtain ⟨rfl, rfl⟩ := stand x st h
    rcases hp with hp | hp <;> cases hp
    exact ⟨job, List.mem_singleton_self _, rfl, _, List.mem_singleton_self _, rfl⟩
  · cases ch <;> cases h
  · cases ch <;> cases hj
    cases hr; rfl
  · cases ch
    · exact rest
    · intro j r h; cases h

/-- A role change that gives channel A its first line, one that takes its line, and one that moves it from L7 to L3 while its
job runs (R48). -/
theorem test_met_rebinding :
    let ph : Phase := .dwell (.font 0) 3
    let s := asked 0x02 [3, 3] (running ph (press (shelved (some (story (.setting .a 1))) none [])))
    Front s 0x02 (fr 0x02 [3, 3]) ∧ lineOf 3 = some 3 ∧ roleOf 3 = .setter ∧ s.lines[(3 : LineNo)].owner.role ≠ roleOf 3 ∧
    s.othersWith 3 (roleOf 3) < (roleOf 3).limit ∧ s.boundLine .a = some 7 ∧ (7 : LineNo) ≠ 3 ∧
    (after .lineRole s).boundLine .a = some 3 ∧ (after .lineRole s).boundLine .b = some 7 ∧ s.boundLine .b = none ∧
    (s.chan .a).job? = some job ∧ (s.chan .a).run = some (runIn ph) ∧ (s.chan .b).job? = none ∧
    (after .lineRole (asked 0x02 [7, 0] (press up))).boundLine .a = none ∧ (press up).boundLine .a = some 7 ∧ DirectoryForm s := by
  refine ⟨front_asked _ _ _ rfl, rfl, rfl, by decide +kernel, by decide +kernel, by decide +kernel, by decide, by decide +kernel,
    by decide +kernel, by decide +kernel, rfl, rfl, rfl, by decide +kernel, by decide +kernel,
    directory_form_running _ _ fun j r _ h => by cases h; trivial⟩

/-- A role change on a line whose session holds a story, on one whose session reviews a story, and on a WIRE line whose item
holds no cells and one cell (R60, R62, R70, R121). -/
theorem test_met_old_owner :
    let held := asked 0x02 [5, 0] (desk (seat .directory []) (shelved (some (story (.held 5))) none []))
    let reviewing : Session := { seat .review [] with edit := some edit }
    let review := asked 0x02 [5, 1] (desk reviewing (shelved (some { story (.opn 3) with reviewers := [5] }) none []))
    let ik : Intake := { Intake.initial with state := .body, item := some { key := { sid := 7, gen := 1 }, service := 0x43, number := 0 } }
    let wire (n : Nat) := asked 0x02 [6, 0] (circuit ik none (shelved (some { story .intake with count := n }) none []))
    Front held 0x02 (fr 0x02 [5, 0]) ∧ held.lines[(5 : LineNo)].owner.role ≠ roleOf 0 ∧ held.othersWith 5 (roleOf 0) < (roleOf 0).limit ∧
    held.session? 5 = some (seat .directory []) ∧ held.heldBy 5 = some 7 ∧ held.story? 7 = some (story (.held 5)) ∧
    DirectoryForm held ∧ (seat .directory []).state ≠ .dark ∧ review.session? 5 = some reviewing ∧ reviewing.state = .review ∧
    reviewing.edit = some edit ∧ review.story? 7 = some { story (.opn 3) with reviewers := [5] } ∧
    (∀ n, (wire n).intake? 6 = some ik ∧ (wire n).story? 7 = some { story .intake with count := n } ∧ DirectoryForm (wire n)) ∧
    Front (wire 0) 0x02 (fr 0x02 [6, 0]) ∧ (wire 0).lines[(6 : LineNo)].owner.role ≠ roleOf 0 ∧
    (wire 1).othersWith 6 (roleOf 0) < (roleOf 0).limit := by
  refine ⟨front_asked _ _ _ rfl, by decide, by decide +kernel, session_desk _ _, by decide +kernel, rfl,
    directory_form_desk _ (by decide) _ _ _ _ (fun st h => ?_) (fun st h => ?_), by decide, session_desk _ _, rfl, rfl, rfl,
    fun n => ⟨rfl, rfl, directory_form_circuit _ _ _ _ _ _ _ rfl rfl rfl rfl
      ⟨by show (3 : BasketNo).val ≤ 22; decide, fun b h => (by cases h), rfl⟩ (fun st h => by cases h)⟩, front_asked _ _ _ rfl,
    by decide, by decide +kernel⟩
  · cases h; exact .inr ⟨⟨by decide, fun b h => (by cases h), rfl⟩, rfl, by decide⟩
  · cases h

/-- LINE STATUS of a line of each role, a setter with a job and a status byte (R58). -/
theorem test_met_line_status :
    let body (l : Byte) : List Byte := [l, 0]
    let setter := (running .due (press up)).modChan .a fun c => { c with lastStatus := some 0x11 }
    RolesLimited (asked 0x05 (body 39) up) ∧ RolesLimited (asked 0x05 (body 5) (desk (seat .edit [0x41]) up)) ∧
    RolesLimited (asked 0x05 (body 6) (circuit Intake.initial none up)) ∧ RolesLimited (asked 0x05 (body 7) setter) ∧
    setter.boundChan 7 = some .a ∧ (setter.chan .a).job? = some job ∧ (setter.chan .a).lastStatus = some 0x11 ∧
    Front (asked 0x05 (body 7) setter) 0x05 (fr 0x05 (body 7)) ∧ parseFlag 0 = some false := by
  exact ⟨roles_limited_one 39 LineRec.powerStart _ (by decide +kernel), roles_limited_one 5 _ _ rfl, roles_limited_one 6 _ _ rfl,
    roles_limited_one 7 _ _ rfl, by decide +kernel, rfl, rfl, front_asked _ _ _ rfl, rfl⟩

/-- LINE RESET of a line with an item without cells and with one, of a channel's line with its job running, and of a line with a
byte in its shift stage. -/
theorem test_met_line_reset_work :
    let ik : Intake := { Intake.initial with state := .body, item := some { key := { sid := 7, gen := 1 }, service := 0x43, number := 0 } }
    let s (st : Story) := asked 0x04 [6] (circuit ik none (shelved (some st) none []))
    Front (s (story .intake)) 0x04 (fr 0x04 [6]) ∧ (s (story .intake)).intake? 6 = some ik ∧
    (s (story .intake)).story? 7 = some (story .intake) ∧ (story .intake).count = 0 ∧
    (s { story .intake with count := 1 }).story? 7 = some { story .intake with count := 1 } ∧
    ({ story .intake with count := 1 } : Story).count ≠ 0 ∧
    (let r := asked 0x04 [7] (running .due (press up)); Front r 0x04 (fr 0x04 [7]) ∧ r.boundChan 7 = some .a ∧
      r.lines[(7 : LineNo)].owner = .setter ∧ (r.chan .a).job? = some job ∧ (r.chan .a).run = some (runIn .due)) ∧
    ((desk (seat .directory []) up).modLine 5 fun r => { r with shift := some { byte := 0, settings := .default } }).lines[(5 : LineNo)].shift.isSome = true ∧
    (desk (seat .directory []) up).lines[(5 : LineNo)].shift = none := by
  refine ⟨front_asked _ _ _ rfl, rfl, rfl, rfl, rfl, by decide, ⟨front_asked _ _ _ rfl, by decide +kernel, rfl, rfl, rfl⟩, rfl, rfl⟩

theorem test_met_sign_on :
    Front (asked 0x07 [5, 15] (desk (Session.fresh 15) up)) 0x07 (fr 0x07 [5, 15]) ∧ lineOf 5 = some 5 ∧
    profileOf 15 = some 15 ∧ profileOf 16 = none ∧ (asked 0x07 [5, 15] (desk (Session.fresh 15) up)).session? 5 = some (Session.fresh 15) ∧
    (Session.fresh 15).state = .dark ∧ (seat .directory []).state ≠ .dark ∧ up.session? 5 = none :=
  ⟨front_asked _ _ _ rfl, rfl, rfl, rfl, session_desk _ _, rfl, by decide, rfl⟩

/-- Code entry: the first digit, the fourth with and without a profile of that code, DEL-CHAR with digits and with none, and the
keys that ring (R65, R66). -/
theorem test_met_code_entry :
    let ss (code fifo : List Byte) : Session := { Session.fresh 15 with code := code, fifo := fifo }
    let p := { up with profiles := up.profiles.set 2 { Profile.default 2 with code := 1234 } }
    (desk (ss [] [0x30]) p).session? 5 = some (ss [] [0x30]) ∧ (ss [] []).state = .dark ∧ headKey [0x30] = some (.text 0x30, []) ∧
    headKey [0x39] = some (.text 0x39, []) ∧ ([0x31, 0x32] : List Byte).length < 3 ∧ digitsValue [0x31, 0x32, 0x33, 0x34] = 1234 ∧
    (∀ n : ProfileNo, up.profiles[n].code ≠ 1234) ∧ p.profiles[(2 : ProfileNo)].code = 1234 ∧
    (∀ m : ProfileNo, m < 2 → p.profiles[m].code ≠ 1234) ∧ headKey [0x1F, 0x4B] = some (.code 0x4B, []) ∧ ([0x31] : List Byte) ≠ [] ∧
    headKey [0x2F] = some (.text 0x2F, []) ∧ headKey [0x3A] = some (.text 0x3A, []) ∧ headKey [0x1F, 0x5A] = some (.code 0x5A, []) ∧
    headKey [0x1F, 0x5B] = some (.code 0x5B, []) ∧
    ∀ row ∈ entryKeys, headKey [0x1F, row.2] = some (.code row.2, []) := by
  refine ⟨session_desk _ _, rfl, by decide, by decide, by decide, by decide, by decide +kernel, rfl, ?_, by decide, by decide,
    by decide, by decide, by decide, by decide, ?_⟩
  · decide +kernel
  · decide

theorem test_met_sign_off :
    Front (asked 0x08 [5] (desk (seat .directory []) up)) 0x08 (fr 0x08 [5]) ∧ (seat .directory []).state ≠ .dark ∧
    (Session.fresh 15).state = .dark ∧ lineOf 40 = none ∧ up.session? 5 = none ∧
    (desk (seat .edit [0x1F, 0x5B]) up).session? 5 = some (seat .edit [0x1F, 0x5B]) ∧
    headKey (seat .edit [0x1F, 0x5B]).fifo = some (.code 0x5B, []) :=
  ⟨front_asked _ _ _ rfl, by decide, rfl, rfl, rfl, session_desk _ _, by decide⟩

theorem test_met_messages :
    Front (asked 0x09 (5 :: textBytes (List.replicate 35 0x7E)) (desk (seat .directory []) up)) 0x09
      (fr 0x09 (5 :: textBytes (List.replicate 35 0x7E))) ∧ (∀ b ∈ List.replicate 35 (0x7E : Byte), 0x20 ≤ b.toNat ∧ b.toNat ≤ 0x7E) ∧
    (5 : Byte) ≠ 0xFF ∧ up.session? 5 = none ∧
    Front (asked 0x0A [5, 1] (desk (seat .directory []) up)) 0x0A (fr 0x0A [5, 1]) ∧
    dispModeOf 0 = some .normal ∧ (seat .directory []).mode = .normal ∧ dispModeOf 3 = some .test ∧ DispMode.test ≠ .normal := by
  refine ⟨front_asked _ _ _ rfl, by decide +kernel, by decide, rfl, front_asked _ _ _ rfl, ?_⟩; decide

/-! ## States that meet the hypotheses: stories -/

/-- Every record taken by the story at a place. -/
def crowded (p : Place) : State := { up with dir := Vector.replicate 512 { gen := 255, story := some (story p) } }

theorem test_met_story_create :
    Front (asked 0x10 (textBytes (ascii "BUDGET") ++ [31, 22, 3]) up) 0x10 (fr 0x10 (textBytes (ascii "BUDGET") ++ [31, 22, 3])) ∧
    validName 16 (ascii "BUDGET") = true ∧ formatOf 31 = some 31 ∧ basketOf 22 = some 22 ∧ prioOf 3 = some .flash ∧
    (asked 0x10 [] up).lowestFreeRecord = some 0 ∧ (asked 0x10 [] (crowded .killed)).lowestFreeRecord = none ∧
    (asked 0x10 [] ((crowded .killed).setStories spikeBasket [7])).stories spikeBasket = 7 :: [] ∧
    (asked 0x10 [] (crowded .killed)).stories spikeBasket = [] := by
  refine ⟨front_asked _ _ _ rfl, by decide +kernel, rfl, rfl, rfl, by decide +kernel, ?_, rfl, rfl⟩
  simp [State.lowestFreeRecord, asked, crowded]

/-- Blocks 0 up to a number, of one cell each. -/
def blocks (n : Nat) : List Block := (List.range' 0 n).map fun i => (i, [Cell.space])

theorem blocks_from (k m : Nat) (h : m + k ≤ 4096) : BlocksFrom m ((List.range' m k).map fun i => (i, [Cell.space])) := by
  induction k generalizing m with
  | zero => trivial
  | succ k ih => exact ⟨Nat.le_refl m, by show m < 4096; omega, by simp, by simp, ih (m + 1) (by omega)⟩

theorem storeWf_blocks (n : Nat) (h : n ≤ 4096) : storeWf (blocks n) = true := (storeWf_iff _).2 (blocks_from n 0 (by omega))

/-- Story 8 at a place with a chain of the first blocks, and story 10 at a place with the other blocks in use. -/
def stockedAt (q p : Place) (c n : Nat) : State :=
  shelved (some { story q with chain := List.range' 0 c, count := c })
    (some { story p with chain := List.range' c (n - c), count := n - c }) (blocks n)

/-- The same with story 8 OPEN in basket 3. -/
abbrev stocked (p : Place) (c n : Nat) : State := stockedAt (.opn 3) p c n

theorem cells_of_blocks (n b : Nat) (h : b < n) : blockCells (blocks n) b = [.space] := by
  have hf : (blocks n).find? (fun x => x.1 == b) = some (b, [.space]) := by
    have : (List.range' 0 n).find? (fun i => i == b) = some b := by
      rw [List.find?_range'_eq_some]
      refine ⟨by simp, by simp [List.mem_range'_1]; omega, fun j _ hj => ?_⟩
      simp; omega
    simp [blocks, List.find?_map, this]
  simp [blockCells, hf]

theorem text_of_single (store : List Block) (a k : Nat) (h : ∀ b, a ≤ b → b < a + k → blockCells store b = [.space]) :
    (chainText store (List.range' a k)).length = k := by
  induction k generalizing a with
  | zero => rfl
  | succ k ih =>
    rw [List.range'_succ]
    simp only [chainText, List.flatMap_cons, List.length_append, h a (Nat.le_refl a) (by omega)]
    have := ih (a + 1) fun b hb hb' => h b (by omega) (by omega)
    simp only [chainText] at this
    rw [this]; simp; omega

theorem text_of_blocks (n a k : Nat) (h : a + k ≤ n) : (chainText (blocks n) (List.range' a k)).length = k :=
  text_of_single _ a k fun b _ hb => cells_of_blocks n b (by omega)

/-- 192 blocks, the first full and the others of one cell each. -/
def brim : List Block := (0, List.replicate 64 .space) :: (List.range' 1 191).map fun i => (i, [Cell.space])

theorem cells_of_brim (b : Nat) (h1 : 1 ≤ b) (h : b < 192) : blockCells brim b = [.space] := by
  have skip : ∀ cells : List Cell, blockCells ((0, cells) :: (List.range' 1 191).map fun i => (i, [Cell.space])) b =
      blockCells ((List.range' 1 191).map fun i => (i, [Cell.space])) b := fun cells => by
    rw [blockCells, List.find?_cons_of_neg (by simp; omega)]; rfl
  have whole : blocks 192 = (0, [Cell.space]) :: (List.range' 1 191).map fun i => (i, [Cell.space]) :=
    congrArg (List.map _) (List.range'_succ (s := 0) (n := 191) (step := 1))
  rw [brim, skip, ← skip [.space], ← whole, cells_of_blocks 192 b h]

theorem store_form_brim (a : Story) (h : a.chain = List.range' 0 192) (hc : a.count = 255) (s : State)
    (hd : s.dir = (shelved (some a) (some (story (.held 39))) brim).dir) (hs : s.store = brim) : StoreForm s := by
  have fst : brim.map Prod.fst = List.range' 0 192 := by
    simp only [brim, List.map_cons, List.map_map]
    rw [show (192 : Nat) = 191 + 1 from rfl, List.range'_succ]
    exact congrArg _ (List.map_id _)
  refine store_form a (story (.held 39)) brim s hd hs ?_ (fun b hb => ?_) (fun b => ?_) (fun b _ hb => by cases hb) ?_ List.nodup_nil
    ?_ rfl
  · exact (storeWf_iff _).2 ⟨Nat.le_refl 0, by decide, by decide, by decide, blocks_from 191 1 (by decide)⟩
  · rw [fst, List.mem_range'_1] at hb; omega
  · rw [fst, h]; exact ⟨.inl, fun x => x.elim id fun x => by cases x⟩
  · rw [h]; exact List.nodup_range'
  · rw [h, hc, show (192 : Nat) = 191 + 1 from rfl, List.range'_succ]
    have := text_of_single brim 1 191 fun b h1 h2 => cells_of_brim b h1 (by omega)
    simp only [chainText] at this
    simp only [chainText, List.flatMap_cons, List.length_append, this]
    rfl

theorem store_form_stockedAt (q p : Place) (c n : Nat) (s : State) (hd : s.dir = (stockedAt q p c n).dir) (hs : s.store = blocks n)
    (hc : c ≤ n) (hn : n ≤ 4096) : StoreForm s := by
  have mem : ∀ b, b ∈ (blocks n).map Prod.fst ↔ b < n := fun b => by simp [blocks]
  refine store_form _ _ (blocks n) s hd hs (storeWf_blocks n hn) (fun b hb => by rw [mem] at hb; omega) (fun b => ?_)
    (fun b hb => ?_) List.nodup_range' List.nodup_range' (text_of_blocks n 0 c (by omega)).symm
    (text_of_blocks n c (n - c) (by omega)).symm
  · rw [mem]; simp [List.mem_range'_1]; omega
  · simp [List.mem_range'_1] at hb ⊢; omega

theorem store_form_stocked (p : Place) (c n : Nat) (host : HostChan) (hc : c ≤ n) (hn : n ≤ 4096) :
    StoreForm { stocked p c n with host := host } := store_form_stockedAt (.opn 3) p c n _ rfl rfl hc hn

theorem chain_form_stocked (p : Place) (c n : Nat) (host : HostChan) (hc : c ≤ n) (hn : n ≤ 4096) :
    ChainForm { stocked p c n with host := host } 7 :=
  ⟨(store_form_stocked p c n host hc hn).once 7, fun b hb => ((store_form_stocked p c n host hc hn).owned b).2 ⟨7, hb⟩⟩

/-- One cell to a story without a chain: with 65 blocks free, with 64 and SPIKE empty, with 64 and a story of 4032 blocks at
SPIKE's head, and to a chain of 192 full blocks' worth of blocks; and an order whose one mark is dropped (R2, R8, R10, R11). -/
theorem test_met_story_append :
    let body : List Byte := [0, 8, 1, 0, 1, 0x41]
    let s (p : Place) (c n : Nat) := asked 0x11 body (stocked p c n)
    Front (s (.held 39) 0 4031) 0x11 (fr 0x11 body) ∧ parseCells (ofBE16 0 1) [0x41] = some [.char 0x41] ∧ ofBE16 0 1 = 1 ∧
    ofBE16 2 0 = 512 ∧ (s (.held 39) 0 4031).dir[(7 : Sid)] = { gen := 1, story := some (story (.opn 3)) } ∧
    (s (.held 39) 0 4031).freeBlockCount = 65 ∧ StoreForm (s (.held 39) 0 4031) ∧ ChainForm (s (.held 39) 0 4031) 7 ∧
    (s (.held 39) 0 4032).freeBlockCount = 64 ∧ (s (.held 39) 0 4032).stories spikeBasket = [] ∧
    StoreForm (s (.held 39) 192 192) ∧ ChainForm (s (.held 39) 192 192) 7 ∧ (List.range' 0 192).length = 192 ∧
    DirectoryForm (s .killed 0 4032) ∧ StoreForm (s .killed 0 4032) ∧ (s .killed 0 4032).freeBlockCount = 64 ∧
    (s .killed 0 4032).stories spikeBasket = 9 :: [] ∧ ((s .killed 0 4032).chainOf 9).length = 4032 ∧
    parseCells (ofBE16 0 1) [0xE5, 0, 9] = some [] := by
  have free : ∀ n p c host, ({ stocked p c n with host := host } : State).freeBlockCount = 4096 - n := fun n p c host => by
    simp [State.freeBlockCount, stockedAt, shelved, blocks]
  refine ⟨front_asked _ _ _ rfl, rfl, rfl, rfl, rfl, free _ _ _ _, store_form_stocked _ _ _ _ (by omega) (by omega),
    chain_form_stocked _ _ _ _ (by omega) (by omega), free _ _ _ _, rfl, store_form_stocked _ _ _ _ (by omega) (by omega),
    chain_form_stocked _ _ _ _ (by omega) (by omega), by simp, ?_, store_form_stocked _ _ _ _ (by omega) (by omega),
    free _ _ _ _, rfl, by simp [State.chainOf, State.story?, asked, stockedAt, shelved], by decide⟩
  refine directory_form_idle _ _ _ _ ?_ ?_
  · intro st h; cases h; exact ⟨⟨by decide, fun b h => (by cases h; decide), rfl⟩, rfl⟩
  · intro st h; cases h; exact ⟨⟨by decide, fun b h => (by cases h), rfl⟩, rfl⟩

theorem test_met_reading :
    Front (asked 0x12 [0, 8, 1, 0, 0, 2, 0] (filed (.opn 3))) 0x12 (fr 0x12 [0, 8, 1, 0, 0, 2, 0]) ∧ ofBE16 2 0 = 512 ∧
    Names (asked 0x12 [0, 8, 1, 0, 0, 2, 0] (filed (.opn 3))) 0 8 1 7 (story (.opn 3)) ∧
    Front (asked 0x13 [0, 8, 1] (filed .intake)) 0x13 (fr 0x13 [0, 8, 1]) ∧
    Front (asked 0x14 [23, 0, 0, 64] up) 0x14 (fr 0x14 [23, 0, 0, 64]) ∧ basketOf 23 = some 23 ∧ (64 : Byte).toNat ≤ 64 :=
  ⟨front_filed _ _ _, rfl, names_filed _ _ _, front_filed _ _ _, front_asked _ _ _ rfl, rfl, by decide⟩

/-- The story orders' story at every place it can have: MOVE, PRIORITY, KILL, UNKILL, PURGE, FIT and the SET orders. -/
theorem test_met_story_orders :
    ∀ p ∈ [Place.opn 0, .opn 22, .held 5, .intake, .queued .a 1, .setting .b 65535, .killed],
      (Front (asked 0x15 [0, 8, 1, 22, 1] (filed p)) 0x15 (fr 0x15 [0, 8, 1, 22, 1]) ∧
        Names (asked 0x15 [0, 8, 1, 22, 1] (filed p)) 0 8 1 7 (story p)) ∧
      (Front (asked 0x16 [0, 8, 1, 3] (filed p)) 0x16 (fr 0x16 [0, 8, 1, 3]) ∧
        Names (asked 0x16 [0, 8, 1, 3] (filed p)) 0 8 1 7 (story p)) ∧
      (Front (asked 0x17 [0, 8, 1] (filed p)) 0x17 (fr 0x17 [0, 8, 1]) ∧
        Names (asked 0x17 [0, 8, 1] (filed p)) 0 8 1 7 (story p)) ∧
      (Front (asked 0x18 [0, 8, 1] (filed p)) 0x18 (fr 0x18 [0, 8, 1]) ∧
        Names (asked 0x18 [0, 8, 1] (filed p)) 0 8 1 7 (story p)) ∧
      (Front (asked 0x19 [0, 0, 8, 1] (filed p)) 0x19 (fr 0x19 [0, 0, 8, 1]) ∧
        Names (asked 0x19 [0, 0, 8, 1] (filed p)) 0 8 1 7 (story p)) ∧
      Front (asked 0x20 [0, 8, 1] (filed p)) 0x20 (fr 0x20 [0, 8, 1]) ∧
        Names (asked 0x20 [0, 8, 1] (filed p)) 0 8 1 7 (story p) :=
  fun p _ => ⟨⟨front_filed p _ _, names_filed p _ _⟩, ⟨front_filed p _ _, names_filed p _ _⟩, ⟨front_filed p _ _, names_filed p _ _⟩,
    ⟨front_filed p _ _, names_filed p _ _⟩, ⟨front_filed p _ _, names_filed p _ _⟩, front_filed p _ _, names_filed p _ _⟩

theorem test_met_move : basketOf 22 = some 22 ∧ parseFlag 0 = some false ∧ parseFlag 1 = some true ∧
    (Place.opn 22) ≠ .opn 3 ∧ (story .killed).home.val ≤ 22 := by decide

theorem test_met_priority :
    prioOf 2 = some (story (.opn 3)).prio ∧ prioOf 3 = some .flash ∧ Prio.flash ≠ (story (.opn 3)).prio ∧
    (Place.held 5).basket? = none ∧ Place.held 5 ≠ .intake := by decide

/-- UNKILL's alert: a session on L5 under a profile that watches basket 3, with no alert. -/
theorem test_met_unkill_alert :
    let s := desk (seat .directory []) { filed .killed with profiles := up.profiles.set 2 { Profile.default 2 with watch := 8#23 } }
    s.session? 5 = some (seat .directory []) ∧ inMask s.profiles[(2 : ProfileNo)].watch 3 = true ∧
    (seat .directory []).alert = none ∧ (story .killed).prio ≠ .routine :=
  ⟨session_desk _ _, by decide, rfl, by decide⟩

/-- A watching session with an alert that an alert of FLASH replaces, and one that keeps its own FLASH alert against an URGENT one;
PRIORITY to a higher and to a lower priority; and an alert that names the story a kill takes (R40, R41). -/
theorem test_met_alerts :
    let held (p : Prio) : Session := { seat .directory [] with alert := some { basket := 3, sid := 7, prio := p } }
    let s (p : Prio) := desk (held p) { filed (.opn 3) with profiles := up.profiles.set 2 { Profile.default 2 with watch := 8#23 } }
    (∀ p, (s p).session? 5 = some (held p) ∧ (held p).alert = some { basket := 3, sid := 7, prio := p } ∧
      inMask (s p).profiles[(2 : ProfileNo)].watch 3 = true) ∧
    Prio.rank .urgent ≤ Prio.rank .flash ∧ ¬ Prio.rank .flash ≤ Prio.rank .urgent ∧ prioOf 3 = some .flash ∧ prioOf 1 = some .routine ∧
    (story (.opn 3)).prio.rank < Prio.rank .flash ∧ Prio.rank .routine < (story (.opn 3)).prio.rank := by
  refine ⟨fun p => ⟨session_desk _ _, rfl, by cases p <;> decide⟩, ?_⟩; decide

/-- A DARK session at rest on L5: nothing to send, and its image as the state has it. -/
def resting : Session :=
  { Session.fresh 15 with
    modePending := none, bell := false, dirty := Vector.replicate 24 false, flight := none, codeOut := none, cursorPending := false,
    image := Vector.ofFn (up.imageRow (Session.fresh 15)) }

theorem settled_resting (k : Byte) (body : List Byte) : Settled (asked k body (desk resting up)) := by
  have line (l : LineNo) : l = 5 ∨ (asked k body (desk resting up)).lines[l] = LineRec.powerStart := by
    by_cases h : l = 5
    · exact .inl h
    · refine .inr ?_
      exact (State.line_setLine_ne up _ h).trans (by simp [up, State.reset, State.atPowerStart])
  have only (l : LineNo) (ss : Session) (h : (asked k body (desk resting up)).session? l = some ss) : l = 5 ∧ ss = resting := by
    rcases line l with rfl | e
    · exact ⟨rfl, by have := session_desk resting up; rw [show (asked k body (desk resting up)).session? 5 = some resting from this] at h; cases h; rfl⟩
    · rw [State.session?, e] at h; cases h
  refine ⟨fun l ss h => ?_, fun l ss h => ?_, fun l ss v h => ?_, fun l ss h _ => ?_, fun l ho hh => ?_, fun _ h => ?_⟩
  · obtain ⟨_, rfl⟩ := only l ss h; rfl
  · obtain ⟨_, rfl⟩ := only l ss h; exact .inl rfl
  · obtain ⟨_, rfl⟩ := only l ss h; exact fun x => by cases x
  · obtain ⟨_, rfl⟩ := only l ss h; decide
  · rcases line l with rfl | e
    · cases ho
    · rw [e]; rfl
  · cases h

/-- DISPLAY MODE of INVERSE and BASKET NAME in a state that is at rest and shows what it is to show. -/
theorem test_met_settled_orders :
    Settled (asked 0x0A [5, 1] (desk resting up)) ∧ Front (asked 0x0A [5, 1] (desk resting up)) 0x0A (fr 0x0A [5, 1]) ∧
    (asked 0x0A [5, 1] (desk resting up)).session? 5 = some resting ∧ resting.mode = .normal ∧ dispModeOf 1 = some .inverse ∧
    Settled (asked 0x32 (3 :: textBytes (ascii "NEWS")) (desk resting up)) ∧
    Front (asked 0x32 (3 :: textBytes (ascii "NEWS")) (desk resting up)) 0x32 (fr 0x32 (3 :: textBytes (ascii "NEWS"))) ∧
    (asked 0x32 (3 :: textBytes (ascii "NEWS")) (desk resting up)).showsName 3 resting = false :=
  ⟨settled_resting _ _, front_asked _ _ _ rfl, session_desk _ _, rfl, rfl, settled_resting _ _, front_asked _ _ _ rfl, rfl⟩
/-- A blanked session that takes an alert which PRIORITY raises to FLASH, and so wakes (R82, R84). -/
theorem test_met_waking_alert :
    let ss : Session := { seat .directory [] with mode := .blank }
    let s := desk ss { filed (.opn 3) with profiles := up.profiles.set 2 { Profile.default 2 with watch := 8#23 } }
    s.session? 5 = some ss ∧ inMask s.profiles[(2 : ProfileNo)].watch 3 = true ∧ ss.alert = none ∧ prioOf 3 = some .flash ∧
    (story (.opn 3)).prio.rank < Prio.rank .flash :=
  ⟨session_desk _ _, by decide, rfl, rfl, by decide⟩

/-- A force move's holder in EDIT with the message "TAKEN BY DESK" (R32, R108). -/
theorem test_taken_by_desk :
    let ss : Session := { seat .edit [] with edit := some edit }
    ss.takenByDesk.state = .directory ∧ ss.takenByDesk.edit = none ∧ ss.takenByDesk.message = some (ascii "TAKEN BY DESK") ∧
    (seat .review []).takenByDesk.state = .review := by decide

/-- MOVE with force of a story with its holder in EDIT and in DIRECTORY, with a reviewer, and with a session that takes its alert. -/
theorem test_met_force_move :
    let st : Story := { story (.held 5) with reviewers := [6] }
    let ss (x : SessState) : Session := { seat x [] with edit := some edit }
    let s (x : SessState) :=
      desk (ss x) ((shelved (some st) none []).setLine 6 { LineRec.powerStart with owner := .terminal (ss .review) })
    let watched (x : SessState) : State := { s x with profiles := up.profiles.set 2 { Profile.default 2 with watch := 8#23 } }
    (∀ x, (s x).session? 5 = some (ss x) ∧ (watched x).session? 5 = some (ss x)) ∧
    (∀ x, (s x).session? 6 = some (ss .review)) ∧ (6 : LineNo) ∈ st.reviewers ∧ (5 : LineNo) ∉ st.reviewers ∧
    (ss .review).shows 7 = true ∧ st.prio ≠ .routine ∧ (ss .edit).profile = some 2 ∧ (ss .edit).alert = none ∧
    inMask (watched .edit).profiles[(2 : ProfileNo)].watch 3 = true ∧ inMask (s .edit).profiles[(2 : ProfileNo)].watch 3 = false := by
  refine ⟨fun x => ⟨session_desk _ _, session_desk _ _⟩, fun x => rfl, ?_⟩; decide +kernel

/-- MOVE of a reviewed story between baskets of different names, and the stories' holder and reviewer sessions (R72). -/
theorem test_met_shown_values :
    let st (p : Place) (more : List LineNo) : Story := { story p with reviewers := more }
    let s (p : Place) (more : List LineNo) := desk { seat .review [] with edit := some edit } (shelved (some (st p more)) none [])
    (5 : LineNo) ∈ (st (.opn 3) [5]).reviewers ∧ (s (.opn 3) [5]).session? 5 = some { seat .review [] with edit := some edit } ∧
    ({ seat .review [] with edit := some edit } : Session).shows 7 = true ∧ (st (.held 5) []).place = .held 5 ∧
    (s (.opn 3) [5]).baskets[(3 : BasketNo)].name ≠ (s (.opn 3) [5]).baskets[(22 : BasketNo)].name ∧
    Front (asked 0x15 [0, 8, 1, 22, 0] (s (.opn 3) [5])) 0x15 (fr 0x15 [0, 8, 1, 22, 0]) ∧
    (asked 0x15 [0, 8, 1, 22, 0] (s (.opn 3) [5])).story? 7 = some (st (.opn 3) [5]) ∧
    (asked 0x15 [0, 8, 1, 22, 0] (s (.opn 3) [5])).session? 5 = some { seat .review [] with edit := some edit } :=
  ⟨by decide, session_desk _ _, by decide, rfl, by decide +kernel, front_asked _ _ _ rfl, rfl, session_desk _ _⟩

theorem test_met_kill_reviewer :
    let st := { story (.opn 3) with reviewers := [5] }
    let s := desk { seat .review [] with edit := some edit } (up.setRec 7 { gen := 1, story := some st })
    (5 : LineNo) ∈ st.reviewers ∧ s.session? 5 = some { seat .review [] with edit := some edit } ∧
    ({ seat .review [] with edit := some edit } : Session).shows 7 = true :=
  ⟨by decide, session_desk _ _, by decide⟩

theorem test_met_purge_all :
    let s := asked 0x19 [1, 0, 0, 0] (filed .killed)
    Front s 0x19 (fr 0x19 [1, 0, 0, 0]) ∧ (∀ sid ∈ s.stories spikeBasket, (s.story? sid).map Story.place = some .killed) ∧
    (s.stories spikeBasket).Nodup ∧ s.stories spikeBasket = [7] := by
  have h : (asked 0x19 [1, 0, 0, 0] (filed .killed)).stories spikeBasket = [7] := rfl
  refine ⟨front_filed _ _ _, fun sid hs => ?_, ?_, h⟩
  · rw [h, List.mem_singleton] at hs; subst hs; rfl
  · rw [h]; decide

/-! ## States that meet the hypotheses: fitting, setting, loads and the image -/

/-- A waiting fit entry for a story, and one that is active. -/
def waits (sid : Sid) : FitEntry := { key := { sid := sid, gen := 1 }, active := none }

def fitRun : FitRun :=
  { spoiled := false, outdated := false, again := false, formatNo := 0, format := .default 0, widths := zeroWidths,
    fitter := Fitter.start }

def fits (sid : Sid) : FitEntry := { waits sid with active := some fitRun }

def fitting (q : List FitEntry) : State := { filed (.opn 3) with fitQueue := q }

/-- Row 0 is marked on the holder of a story that a fit queues, although its session is in DIRECTORY, and on a session whose
basket field changes in the OFF phase of its alert, when row 0 is shown blank (R72, R84). -/
theorem test_row_zero_is_marked_unseen :
    let s := shelved (some (story (.held 5))) none []
    let ss : Session :=
      { seat .directory [] with
        dirty := Vector.replicate 24 false, alert := some { basket := 3, sid := 7, prio := .flash }, blinkOn := false }
    let other : Session := { ss with view := some { basket := some 4, top := 0, highlight := 0 } }
    (ss.markStatus s { s with fitQueue := [fits 7] } 5 none).dirty[0] = true ∧ ss.blinkedOut = true ∧ other.blinkedOut = true ∧
    (ss.markStatus s s 5 (some other)).dirty[0] = true := by
  decide +kernel

/-- A new name of its basket is no change of a story's own values: for those row 0 is marked on its holder and its reviewers, "for a
basket name" only on "the sessions that show it" (R72). -/
theorem test_basket_name_is_no_value_of_a_story :
    let s := shelved (some (story (.held 5))) none []
    let named := s.setBasket 3 { s.baskets[(3 : BasketNo)] with name := ascii "NEWS" }
    named.rowValues s 7 = named.rowValues named 7 ∧ (named.rowValues named 7).map (fun v => v.2.1) = some (ascii "NEWS") ∧
    named.showsName 3 { seat .directory [] with view := some { basket := some 4, top := 0, highlight := 0 } } = false ∧
    named.showsName 3 { seat .edit [] with edit := some edit } = true := by decide +kernel

theorem test_met_fit :
    (asked 0x20 [0, 8, 1] (filed (.opn 3))).fitQueue = [] ∧ (story (.opn 3)).place ≠ .intake ∧ (story (.opn 3)).place ≠ .killed ∧
    (fitting (fits 8 :: List.replicate 14 (waits 9))).fitQueue.length < 16 ∧ (fits 8).active.isSome = true ∧
    (fitting (fits 8 :: List.replicate 14 (waits 9))).fitting 7 = false ∧ (fitting [fits 7]).fitting 7 = true ∧
    16 ≤ (fitting (fits 8 :: List.replicate 15 (waits 9))).fitQueue.length ∧
    (fitting (fits 8 :: List.replicate 15 (waits 9))).fitting 7 = false := by
  refine ⟨rfl, by decide, by decide, ?_, rfl, ?_, ?_, ?_, ?_⟩ <;> decide

/-- The set orders: 31 and 32 jobs queued on an OFFLINE channel, and an IDLE channel with none. -/
def queued (st : ChanState) (q : List Job) (s : State) : State := s.setChan .a { Channel.powerStart with state := st, queue := q }

theorem test_met_set :
    let s (q : List Job) := asked 0x21 [0, 8, 1, 0, 0, 0xFF] (queued .offline q (filed (.opn 3)))
    Front (s []) 0x21 (fr 0x21 [0, 8, 1, 0, 0, 0xFF]) ∧ Names (s []) 0 8 1 7 (story (.opn 3)) ∧ chanOf 0 = some .a ∧
    ((s (List.replicate 31 (waiting 1))).chan .a).queue.length < 32 ∧ ((s (List.replicate 32 (waiting 1))).chan .a).queue.length = 32 ∧
    ((s []).chan .a).state = .offline ∧ ((s [waiting 1]).chan .a).job? = none ∧
    ((queued .idle [] (filed (.opn 3))).chan .a).state = .idle ∧ (22 : Byte).toNat ≤ 22 ∧ basketOf 22 = some 22 ∧
    Front (asked 0x22 [0, 0, 1, 0, 8, 1, 0, 0, 0, 0, 0, 0, 0, 0] (filed (.opn 3))) 0x22
      (fr 0x22 [0, 0, 1, 0, 8, 1, 0, 0, 0, 0, 0, 0, 0, 0]) ∧ measureOk (ofBE16 0 0) = true ∧
    (∀ x ∈ [job], x.running = true ∨ x.rush = true) ∧ (∀ x ∈ [waiting 1].head?, x.running = false ∧ x.rush = false) := by
  refine ⟨front_asked _ _ _ (filed_host _), ⟨rfl, filed_dir _⟩, rfl, ?_, ?_, rfl, rfl, rfl, by decide, rfl, front_filed _ _ _, ?_, ?_, ?_⟩ <;>
    decide

/-- SET STORY on a channel that runs a job, its code dwelling, and that is PAUSED with its code due; and on an IDLE channel with a
job waiting, the new one behind it or, with rush, before it. -/
theorem test_met_set_waiting :
    let body (rush : Byte) : List Byte := [0, 8, 1, 0, rush, 0xFF]
    let s (rush : Byte) (q : State → State) := asked 0x21 (body rush) (q (filed (.opn 3)))
    let busy (ph : Phase) (st : ChanState) (s : State) : State := (running ph s).modChan .a fun c => { c with state := st }
    let shelf : State := shelved (some (story (.opn 3))) (some (story (.queued .a 5))) []
    let idle (rush : Byte) := asked 0x21 (body rush) (queued .idle [behind] (desk (seat .directory []) shelf))
    let new (rush : Bool) : Job := { job with number := 1, rush := rush, running := false }
    (∀ rush ph, ph = .dwell (.font 0) 3 → Front (s rush (busy ph .running)) 0x21 (fr 0x21 (body rush)) ∧
      Names (s rush (busy ph .running)) 0 8 1 7 (story (.opn 3)) ∧ (s rush (busy ph .running)).jobAtRest .a ∧
      ((s rush (busy ph .running)).chan .a).state ≠ .idle ∧ ((s rush (busy ph .running)).chan .a).queue.length < 32) ∧
    (s 0 (busy .due .paused)).jobAtRest .a ∧ ((s 0 (busy .due .paused)).chan .a).state ≠ .idle ∧
    (∀ rush, Front (idle rush) 0x21 (fr 0x21 (body rush)) ∧ Names (idle rush) 0 8 1 7 (story (.opn 3)) ∧
      ((idle rush).chan .a).state = .idle ∧ ((idle rush).chan .a).counter = 1 ∧ DirectoryForm (idle rush)) ∧
    enqueueJob (new false) [behind] = behind :: [new false] ∧ enqueueJob (new true) [behind] = new true :: [behind] := by
  refine ⟨fun rush ph h => ?_, fun j r _ h => ?_, by decide, fun rush => ⟨front_asked _ _ _ rfl, ⟨rfl, rfl⟩, rfl, rfl, ?_⟩, by decide, by decide⟩
  · subst h
    exact ⟨front_asked _ _ _ rfl, ⟨rfl, filed_dir _⟩, fun j r _ h => by cases h; trivial, by show ChanState.running ≠ .idle; decide,
      by show [job].length < 32; decide⟩
  · cases h; exact .inl (by show ChanState.paused ≠ .running; decide)
  · exact directory_form_seat (seat .directory []) (story (.opn 3)) (some (story (.queued .a 5))) [] [behind] _ rfl rfl rfl rfl rfl rfl rfl
      (.inl ⟨⟨⟨by decide, fun b h => by cases h; decide, rfl⟩, rfl⟩, by decide⟩)
      (.inr ⟨_, rfl, ⟨by decide, fun b h => (by cases h), rfl⟩, rfl, rfl⟩)

/-- A segment of a page: a story under generation 1, with a measure override. -/
def segment (sid : Sid) (measure : Nat) : Segment := { key := { sid := sid, gen := 1 }, measure := measure, depth := 0, column := 0, top := 0 }

/-- SET PAGE of segments, with story 8 and story 10 at two places. -/
def paging (segs : List Segment) (a z : Option Place) (q : List Job) : State :=
  asked 0x22 (0 :: 0 :: byte8 segs.length :: segs.flatMap Segment.bytes)
    (queued .offline q (shelved (a.map story) (z.map story) []))

theorem front_paging (segs : List Segment) (a z : Option Place) (q : List Job) :
    Front (paging segs a z q) 0x22 (fr 0x22 (0 :: 0 :: byte8 segs.length :: segs.flatMap Segment.bytes)) := front_asked _ _ _ rfl

theorem isOpen_paging (segs : List Segment) (z : Option Place) (q : List Job) (m : Nat) :
    (segment 7 m).IsOpen (paging segs (some (.opn 3)) z q) := ⟨story (.opn 3), 3, rfl, rfl⟩

/-- A page of two OPEN stories, OFFLINE and IDLE and with the queue full; and one whose second segment names a FREE record, has a
stale key, names the first's story, or one that is HELD or KILLED; counts 0 and 17, and measures 71 and 361 (R160, R161). -/
theorem test_met_set_page :
    let two := [segment 7 0, segment 9 360]
    let s (z : Option Place) (q : List Job) := paging two (some (.opn 3)) z q
    let stale : Segment := { segment 9 0 with key := { sid := 9, gen := 2 } }
    (∀ g ∈ two, g.MeasureLegal ∧ g.Fits) ∧ two.length ≤ 16 ∧ (∀ g ∈ two, g.IsOpen (s (some (.opn 22)) [])) ∧ StoriesApart two ∧
    ((s (some (.opn 22)) []).chan .a).queue.length < 32 ∧ ((s (some (.opn 22)) []).chan .a).state = .offline ∧
    ((s (some (.opn 22)) []).chan .a).job? = none ∧ DirectoryForm (s (some (.opn 22)) []) ∧
    ((s (some (.opn 22)) (List.replicate 32 (waiting 1))).chan .a).queue.length = 32 ∧
    ((queued .idle [] (s (some (.opn 22)) [])).chan .a).state = .idle ∧ two = [segment 7 0] ++ segment 9 360 :: [] ∧
    StoriesApart [segment 7 0] ∧ (s none []).story? 9 = none ∧ ((s (some .killed) []).story? 9).isSome = true ∧
    (s (some .killed) []).dir[stale.key.sid].gen ≠ stale.key.gen ∧ (s (some (.held 5)) []).live? (segment 9 0).key = some (story (.held 5)) ∧
    (segment 7 0).key.sid = (segment 7 72).key.sid ∧ (∀ x ∈ [segment 7 0], x.key.sid ≠ (segment 9 0).key.sid) ∧
    (s (some .killed) []).live? (segment 9 0).key = some (story .killed) ∧ ¬(segment 7 71).MeasureLegal ∧ ¬(segment 7 361).MeasureLegal ∧
    ¬ 1 ≤ ([] : List Segment).length ∧ ¬ (List.replicate 17 (segment 7 0)).length ≤ 16 := by
  refine ⟨?_, by decide, ?_, by unfold StoriesApart; decide, by decide, rfl, rfl, ?_, rfl, rfl, rfl, List.nodup_singleton _, rfl, rfl, ?_, rfl, rfl, ?_, rfl, ?_, ?_,
    by decide, by decide⟩
  · intro g hg
    rcases List.mem_cons.1 hg with rfl | hg
    · exact ⟨.inl rfl, ⟨by decide, by decide, by decide, by decide, by decide⟩⟩
    · rw [List.mem_singleton.1 hg]; exact ⟨.inr (by decide), ⟨by decide, by decide, by decide, by decide, by decide⟩⟩
  · intro g hg
    rcases List.mem_cons.1 hg with rfl | hg
    · exact isOpen_paging _ _ _ _
    · rw [List.mem_singleton.1 hg]; exact ⟨story (.opn 22), 22, rfl, rfl⟩
  · refine directory_form_idle_queue _ _ _ _ ?_ ?_ <;> intro st h <;> cases h <;>
      exact ⟨⟨by decide, fun b h => (by cases h; decide), rfl⟩, rfl⟩
  · show (1 : Nat) ≠ 2; decide
  · intro x hx; rw [List.mem_singleton.1 hx]; decide
  · show ¬(71 = 0 ∨ (72 ≤ 71 ∧ 71 ≤ 360)); decide
  · show ¬(361 = 0 ∨ (72 ≤ 361 ∧ 361 ≤ 360)); decide

/-- A page whose second segment's key has a number outside 1 to 512, its other bytes those of a segment (R18, R160). -/
theorem test_met_set_page_number :
    let body : List Byte := 0 :: 0 :: byte8 ([segment 7 0].length + 1 + ([] : List Segment).length) ::
      ([segment 7 0].flatMap Segment.bytes ++ 2 :: 1 :: 1 :: (segment 7 0).bytes.drop 3 ++ ([] : List Segment).flatMap Segment.bytes)
    let s := asked 0x22 body (shelved (some (story (.opn 3))) none [])
    Front s 0x22 (fr 0x22 body) ∧ (segment 7 0).IsOpen s ∧ 512 < ofBE16 2 1 ∧ ofBE16 0 0 = 0 ∧ (chanOf 0).isSome = true ∧
    (parseFlag 0).isSome = true :=
  ⟨front_asked _ _ _ rfl, ⟨story (.opn 3), 3, rfl, rfl⟩, by decide, rfl, rfl, rfl⟩

/-- WITHDRAW of a number that two waiting jobs share, the head's job running; and of a number that waits nowhere (R172). -/
theorem test_met_withdraw :
    let other : Job := { waiting 2 with segments := [segment 9 0] }
    let s := asked 0x23 [0, 0, 2] (queued .offline [job, waiting 2, other] up)
    let waits (n : Nat) (x : Job) : Prop := x.number = n ∧ x.running = false
    Front s 0x23 (fr 0x23 [0, 0, 2]) ∧ chanOf 0 = some .a ∧ (s.chan .a).queue = [job] ++ waiting 2 :: [other] ∧
    waits (ofBE16 0 2) (waiting 2) ∧ (∀ x ∈ [job], ¬waits (ofBE16 0 2) x) ∧ waits (ofBE16 0 2) other ∧
    ∀ x ∈ (s.chan .a).queue, ¬waits (ofBE16 0 1) x := by
  refine ⟨front_asked _ _ _ rfl, rfl, rfl, ⟨rfl, rfl⟩, by decide, ⟨rfl, rfl⟩, ?_⟩
  show ∀ x ∈ [job, waiting 2, { waiting 2 with segments := [segment 9 0] }], ¬(x.number = 1 ∧ x.running = false)
  decide

theorem test_met_cancel :
    let s (ph : Phase) := asked 0x24 [0, 0, 1] (running ph (press up))
    Front (s .due) 0x24 (fr 0x24 [0, 0, 1]) ∧ chanOf 0 = some .a ∧ ((s .due).chan .a).job? = some job ∧
    job.number = ofBE16 0 1 ∧ job.number ≠ ofBE16 0 2 ∧ ((s (.dwell (.lineEnd 0) 9)).chan .a).run = some (runIn (.dwell (.lineEnd 0) 9)) ∧
    ((s .due).chan .a).cancelPending = false ∧ (Code.lineEnd 0).isJobEnd = false ∧ (s .due).boundLine .a = some 7 ∧
    (runIn (.placing (.jobEnd 1) [])).phase = .placing (.jobEnd 1) [] :=
  ⟨front_asked _ _ _ rfl, rfl, rfl, rfl, by decide, rfl, rfl, rfl, by decide +kernel, rfl⟩

/-- CANCEL with the next code due and a byte in the shift stage. -/
theorem test_met_cancel_due :
    let s := running .due ((press up).modLine 7 fun r => { r with shift := some { byte := 0, settings := .default } })
    s.boundLine .a = some 7 ∧ s.lines[(7 : LineNo)].shift.isSome = true ∧ s.lines[(7 : LineNo)].holding = none :=
  ⟨by decide +kernel, rfl, rfl⟩

/-- FORMAT LOAD and WIDTH LOAD at the ends of their ranges (R122, R126). -/
theorem test_met_format_width :
    let body := (31 : Byte) :: (textBytes (ascii "BODY") ++ [0, 144, 15, 144, 0, 20, 1, 8, 11, 24, 1, 1, 0])
    Front (asked 0x30 body up) 0x30 (fr 0x30 body) ∧ (ascii "BODY").length ≤ 255 ∧ formatOf 31 = some 31 ∧
    modeOf 1 = some .justify ∧ modeOf 0 = none ∧ modeOf 5 = none ∧ (Format.default 0).inRange = true ∧
    ({ Format.default 0 with optSpace := 7 }).inRange = false ∧
    Front (asked 0x31 [15, 0x9F, 1, 63] up) 0x31 (fr 0x31 [15, 0x9F, 1, 63]) ∧ fontOf 15 = some 15 ∧
    (0x9F : Byte).toNat + (1 : Byte).toNat ≤ 0xA0 ∧ (63 : Byte).toNat ≤ 63 :=
  ⟨front_asked _ _ _ rfl, by decide, rfl, rfl, rfl, rfl, by decide, by decide, front_asked _ _ _ rfl, rfl, by decide, by decide⟩

theorem test_met_other_loads :
    Front (asked 0x32 (22 :: textBytes (ascii "NEWS")) up) 0x32 (fr 0x32 (22 :: textBytes (ascii "NEWS"))) ∧
    validName 8 (ascii "NEWS") = true ∧ validName 8 [] = false ∧ basketOf 22 = some 22 ∧
    Front (asked 0x33 (15 :: 0x39 :: 0x39 :: 0x39 :: 0x39 :: (textBytes (ascii "CITY") ++ [0, 0, 8, 0, 0, 8, 0, 0, 0, 7, 3, 1])) up) 0x33
      (fr 0x33 (15 :: 0x39 :: 0x39 :: 0x39 :: 0x39 :: (textBytes (ascii "CITY") ++ [0, 0, 8, 0, 0, 8, 0, 0, 0, 7, 3, 1]))) ∧
    inMask (maskOfBytes 0 0 8) 3 = true ∧ inMask (maskOfBytes 0 0 8) 4 = false ∧ ([0x39, 0x39, 0x39, 0x39] : List Byte).all isDigit = true ∧
    Front (asked 0x34 [39, 3, 0xFF, 0xFF, 0xFF, 30] up) 0x34 (fr 0x34 [39, 3, 0xFF, 0xFF, 0xFF, 30]) ∧
    ofBE16 3 0xFF * 65536 + ofBE16 0xFF 0xFF = 2 ^ 26 - 1 ∧
    Front (asked 0x35 [1, 7, 255, 255, 0x0F, 0xFF, 255, 255, 2, 0x58] up) 0x35 (fr 0x35 [1, 7, 255, 255, 0x0F, 0xFF, 255, 255, 2, 0x58]) ∧
    ofBE16 0x0F 0xFF = 4095 ∧ ofBE16 2 0x58 = 600 ∧ ofBE16 0 10 = 10 :=
  ⟨front_asked _ _ _ rfl, by decide, by decide, rfl, front_asked _ _ _ rfl, by decide, by decide, by decide,
    front_asked _ _ _ rfl, by decide, front_asked _ _ _ rfl, by decide, by decide, by decide⟩

/-- Loads that name no place to load: a format 32, a font 16, a basket 24, a line 40 and a channel 2; and profiles whose number,
code digit, name, basket or channel is bad (R37, R109, R122, R126, R162). -/
theorem test_met_load_refusals :
    let p (nb d bb cb : Byte) (name : List Byte) : List Byte :=
      nb :: d :: 0x39 :: 0x39 :: 0x39 :: (textBytes name ++ [0, 0, 8, 0, 0, 8, 0, 0, 0, 7, bb, cb])
    (∀ k ∈ [(0x30 : Byte), 0x31, 0x32, 0x33, 0x34, 0x35], ∀ n, Front (asked k [n] up) k (fr k [n])) ∧ 31 < (32 : Byte).toNat ∧
    15 < (16 : Byte).toNat ∧ 23 < (24 : Byte).toNat ∧ 39 < (40 : Byte).toNat ∧ 1 < (2 : Byte).toNat ∧
    Front (asked 0x33 (p 15 0x39 23 1 (ascii "CITY")) up) 0x33 (fr 0x33 (p 15 0x39 23 1 (ascii "CITY"))) ∧ 22 < (23 : Byte).toNat ∧
    Front (asked 0x33 (p 16 0x3A 3 2 []) up) 0x33 (fr 0x33 (p 16 0x3A 3 2 [])) ∧
    ([0x3A, 0x39, 0x39, 0x39] : List Byte).all isDigit = false ∧ validName 8 [] = false ∧ ([] : List Byte).length ≤ 255 :=
  ⟨fun _ _ _ => front_asked _ _ _ rfl, by decide, by decide, by decide, by decide, by decide, front_asked _ _ _ rfl, by decide,
    front_asked _ _ _ rfl, by decide, by decide, by decide⟩

def working (w : Work) : State := { up with host := { up.host with active := some { frame := fr 0x40 [], work := w } } }

theorem test_met_image_orders :
    Front (asked 0x40 [0x1F, 0, 1, 0] up) 0x40 (fr 0x40 [0x1F, 0, 1, 0]) ∧ ofBE16 1 0 = 256 ∧ ofBE16 0x1F 0 + 256 = 8192 ∧
    8192 < ofBE16 0x1F 1 + 256 ∧ (working (.imageRead 7936 256)).host.active = some { frame := fr 0x40 [], work := .imageRead 7936 256 } ∧
    Front (asked 0x41 [0x1F, 0xFF, 0, 1, 0xAB, 0xCD] up) 0x41 (fr 0x41 [0x1F, 0xFF, 0, 1, 0xAB, 0xCD]) ∧
    wordsOfBytes [0xAB, 0xCD] = some [0xABCD] ∧ ofBE16 0x1F 0xFF + 1 = 8192 ∧
    (working (.imageWrite 8191 [0xABCD])).host.active = some { frame := fr 0x40 [], work := .imageWrite 8191 [0xABCD] } ∧
    eepromWf (working (.imageWrite 8191 [0xABCD])).eeprom = true :=
  ⟨front_asked _ _ _ rfl, by decide, by decide, by decide, rfl, front_asked _ _ _ rfl, by decide, by decide, rfl, rfl⟩

theorem test_met_restart :
    Front (asked 0x42 [1] up) 0x42 (fr 0x42 [1]) ∧ parseFlag 1 = some true ∧ parseFlag 0 = some false ∧
    (working (.restart true)).host.active = some { frame := fr 0x40 [], work := .restart true } ∧
    (filed .intake).story? 7 = some (story .intake) ∧ (story .intake).count = 0 ∧
    (filed (.held 5)).story? 7 = some (story (.held 5)) ∧ (filed .killed).story? 7 = some (story .killed) :=
  ⟨front_asked _ _ _ rfl, rfl, rfl, rfl, rfl, rfl, rfl, rfl⟩

/-- RESTART with reload: in hand with an EEPROM that holds a VALID image, and one that holds none (R199). -/
theorem test_met_reload :
    let s := { working (.restart true) with eeprom := image }
    s.host.active = some { frame := fr 0x40 [], work := .restart true } ∧ checkImage s.eeprom = .valid ∧
    checkImage (working (.restart true)).eeprom ≠ .valid := ⟨rfl, by decide +kernel, by decide +kernel⟩

theorem test_met_restart_store :
    StoreForm (working (.restart false)) ∧ (working (.restart false)).host.waiting = none ∧
    (working (.restart false)).story? 7 = none :=
  ⟨⟨test_met_store_form.wf, test_met_store_form.chains, test_met_store_form.owned, test_met_store_form.apart,
    test_met_store_form.once, test_met_store_form.counts⟩, rfl, rfl⟩

/-! ## States that meet the hypotheses: lines and keys -/

theorem test_met_receiver :
    up.lines[(5 : LineNo)].rx = .waitMark ∧ (up.modLine 5 fun r => { r with rx := .hunt }).lines[(5 : LineNo)].rx = .hunt ∧
    (press up).lines[(7 : LineNo)].rx = .assemble ∧ (press up).lines[(7 : LineNo)].owner = .setter ∧
    (circuit Intake.initial none up).lines[(6 : LineNo)].owner = .wire Intake.initial ∧
    (desk (Session.fresh 15) up).lines[(5 : LineNo)].owner = .terminal (Session.fresh 15) := ⟨rfl, rfl, rfl, rfl, rfl, rfl⟩

/-- A GOOD character of even parity and 7 data bits, one with each error, and a FIFO at each end of its room (R50, R52, R85). -/
theorem test_met_character :
    (press up).lines[(7 : LineNo)].rx = .assemble ∧ (onesOf 0x41 + Bool.toNat false) % 2 = 0 ∧ (onesOf 0x43 + Bool.toNat false) % 2 = 1 ∧
    (press up).boundChan 7 = some .a ∧ (0x12 : Byte) ≠ 0x11 ∧ (0x12 : Byte) ≠ 0x13 ∧ (0x12 : Byte) ≠ 0x15 ∧
    (Session.fresh 15).mode ≠ .blank ∧ (Session.fresh 15).discardNext = false ∧ (List.replicate 14 (0x41 : Byte)).length ≤ 14 ∧
    15 ≤ (List.replicate 15 (0x41 : Byte)).length ∧ (List.replicate 15 (0x41 : Byte)).length < 16 ∧
    16 ≤ (List.replicate 16 (0x41 : Byte)).length := by
  refine ⟨rfl, by decide, by decide, by decide +kernel, ?_⟩; decide

theorem test_met_line_timers :
    ((circuit Intake.initial none up).modLine 6 fun r => { r with idleTimer := true }).lines[(6 : LineNo)].idleTimer = true ∧
    (desk (Session.fresh 15) up).session? 5 = some (Session.fresh 15) ∧ (Session.fresh 15).blankTimer.isSome = true ∧
    ({ Session.fresh 15 with blinkTimer := some 6 } : Session).blinkTimer.isSome = true :=
  ⟨rfl, session_desk _ _, rfl, rfl⟩

/-- "Each time the holding slot is empty and the buffer is not, the oldest byte in the buffer moves to the holding slot" (R58). -/
theorem test_test_buffer_refills_the_slot :
    let r : LineRec :=
      { LineRec.powerStart with shift := some { byte := 8, settings := .default }, holding := some 9, test := [1, 2] }
    (r.shiftOut.fill 3).shift = some { byte := 9, settings := .default } ∧ (r.shiftOut.fill 3).holding = some 1 ∧
    (r.shiftOut.fill 3).test = [2] ∧ r.owner = .idle := by decide

/-- A break at a TEST session: every row is marked, with the changed flag of the row in flight, and the NORMAL code and the cursor
pend (R79); a key wakes a blanked screen so, whatever mode stood before (R82). -/
theorem test_break_and_waking_send_the_screen_anew :
    let ss : Session :=
      { seat .directory [] with
        mode := .test, dirty := Vector.replicate 24 false, modePending := none, cursorPending := false,
        flight := some { row := 3, copy := .solid, placed := 9, changed := false } }
    let woken := Session.wake 5 { ss with mode := .blank }
    (∀ r : Fin 24, ss.breakSeen.dirty[r] = true ∧ woken.dirty[r] = true) ∧ ss.breakSeen.modePending = some .normal ∧
    ss.breakSeen.cursorPending = true ∧ ss.breakSeen.flight = some { row := 3, copy := .solid, placed := 9, changed := true } ∧
    woken.modePending = some .normal ∧ woken.cursorPending = true ∧ woken.mode = .normal := by decide

theorem test_met_frame_end :
    let s := up.modLine 5 fun r => { r with shift := some { byte := 0, settings := .default } }
    s.lines[(5 : LineNo)].shift.isSome = true ∧ s.lines[(5 : LineNo)].holding = none ∧ s.lines[(5 : LineNo)].owner = .idle ∧
    s.boundChan 5 = none ∧
    (up.modLine 5 fun r => { r with holding := some 0x41 }).lines[(5 : LineNo)].holding = some 0x41 := by
  refine ⟨rfl, rfl, rfl, by decide +kernel, rfl⟩

/-- A frame of 7 data bits and of 8 with each parity (R50). -/
theorem test_met_frames :
    ∀ p ∈ [Parity.none, .even, .odd], ∀ n ∈ [7, 8],
      let x : TxFrame := { byte := 0x41, settings := { Settings.default with dataBits := n, parity := p } }
      (x.settings.dataBits = 7 ∨ x.settings.dataBits = 8) ∧ x.byte = x.settings.sent x.byte := by decide

/-- A frame of 8 data bits without parity of which every bit is spacing: a break if the next sample is spacing too, so the receiver
that goes on to HUNT has found the line marking; one data bit or the parity bit marking tells nothing of it (R51, R53). -/
theorem test_all_spacing_frame_leaves_the_line_marking :
    let even : LineRec := { LineRec.powerStart with settings := { Settings.default with parity := .even } }
    let eight : LineRec := { even with settings := { even.settings with dataBits := 8, parity := .none } }
    eight.frameMarks 0 false false = true ∧ eight.frameMarks 1 false false = false ∧ even.frameMarks 0 false false = true ∧
    even.frameMarks 0 true false = false ∧ even.frameMarks 1 false true = true := by decide

/-- 1200 bit/s, 7 data bits, EVEN parity and 1 stop bit is a frame of 10 bits, 7 data bits, ODD parity and 2 stop bits one of 11
(R50's table). -/
theorem test_frame_lengths :
    ({ Settings.default with dataBits := 7, parity := .even } : Settings).frameLength = 10 ∧
    ({ Settings.default with dataBits := 7, parity := .odd, stopBits := 2 } : Settings).frameLength = 11 := by decide

/-- The letter A with EVEN parity: the start bit, 1000001 least significant first, a parity bit 0, a stop bit (R50). -/
theorem test_frame_levels :
    ({ byte := 0x41, settings := { Settings.default with dataBits := 7, parity := .even } } : TxFrame).levels =
      [false, true, false, false, false, false, false, true, false, true] := by decide

/-- The channel's line sends a byte before the last of a code, the last of a CHAR, of a LINE END with the next line being
staged, of JOB END and of CANCEL (R167, R173, R174). -/
theorem test_met_channel_frame_end :
    let line (s : State) := s.modLine 7 fun r => { r with shift := some { byte := 0, settings := .default }, holding := some 0 }
    let r := { runIn (.placing (.lineEnd 0) []) with seg := some 0 }
    let s := line (runningAs r (press up))
    s.lines[(7 : LineNo)].shift.isSome = true ∧ s.boundLine .a = some 7 ∧ (s.chan .a).job? = some job ∧ (s.chan .a).run = some r ∧
    s.lines[(7 : LineNo)].holding = some 0 ∧ (s.chan .a).state = .running ∧ (s.chan .a).flow = true ∧
    (s.chan .a).cancelPending = false ∧ (s.chan .a).staged = none ∧ r.codes = [] ∧ ¬ 0 < r.fitSeg ∧
    r.segs[0]? = some SegRun.start ∧ 0 < (Code.char 0x41 9).dwell (runIn .due).params ∧
    (job.segments.map fun g => g.key.sid).Nodup ∧ (s.chan .a).queue.tail = [] ∧
    ((s.setChan .a { s.chan .a with queue := [job, waiting 2] }).chan .a).queue.tail = waiting 2 :: [] := by
  refine ⟨rfl, by decide +kernel, rfl, rfl, rfl, rfl, rfl, rfl, rfl, rfl, by decide, rfl, by decide, by decide, rfl, rfl⟩

/-- A story of text held by the session of L5 in EDIT. -/
def editing (cells : List Cell) (ss : Session) : State :=
  desk { ss with edit := ss.edit.orElse fun _ => some edit }
    (shelved (some { story (.held 5) with chain := [0], count := cells.length }) (some (story (.held 39))) [(0, cells)])

theorem story_editing (cells : List Cell) (ss : Session) :
    (editing cells ss).story? 7 = some { story (.held 5) with chain := [0], count := cells.length } :=
  shelved_story _ _ [(0, cells)] _ rfl 7

theorem session_editing (cells : List Cell) (st : SessState) (fifo : List Byte) :
    (editing cells (seat st fifo)).session? 5 = some { seat st fifo with edit := some edit } := session_desk _ _

theorem text_editing (cells : List Cell) (ss : Session) : (editing cells ss).text 7 = cells := by
  have h : (editing cells ss).chainOf 7 = [0] := by simp [State.chainOf, story_editing]
  have hs : (editing cells ss).store = [(0, cells)] := rfl
  simp [State.text, h, hs, chainText, blockCells]

theorem store_form_editing (c : Cell) (ss : Session) : StoreForm (editing [c] ss) :=
  store_form { story (.held 5) with chain := [0], count := 1 } (story (.held 39)) [(0, [c])] _ rfl rfl rfl
    (fun b hb => by rw [List.map_singleton, List.mem_singleton] at hb; rw [hb]; exact Nat.zero_lt_succ _)
    (fun b => by simp [story]) (fun b _ => by simp [story]) (List.nodup_singleton 0) List.nodup_nil rfl rfl

theorem chain_form_editing (c : Cell) (ss : Session) : ChainForm (editing [c] ss) 7 :=
  ⟨(store_form_editing c ss).once 7, fun b hb => ((store_form_editing c ss).owned b).2 ⟨7, hb⟩⟩

theorem room_in_view (s : State) (h : s.stories 3 = [7, 8]) :
    0 + 1 < (s.viewOf { basket := some 3, top := 0, highlight := 0 }).length := by
  simp [State.viewOf, State.viewList, h]

/-- A movement key in EDIT, in REVIEW, in DARK and in DIRECTORY, and DOWN and UP with room to move. -/
theorem test_met_movement :
    (editing [.space] (seat .edit [0x1F, 0x41])).session? 5 = some { seat .edit [0x1F, 0x41] with edit := some edit } ∧
    headKey (seat .edit [0x1F, 0x41]).fifo = some (.code 0x41, []) ∧ headKey (seat .edit [0x1F, 0x4A]).fifo = some (.code 0x4A, []) ∧
    edit.entry = none ∧ moveCursor ((editing [.space] (seat .edit [])).text 7) .left 0 0 = none ∧
    (moveCursor ((editing [.space] (seat .edit [])).text 7) .right 0 0).map Prod.fst = some 1 ∧
    Movement.left ∉ [Movement.up, .down, .pageFwd, .pageBack] ∧
    (desk (seat .directory [0x1F, 0x44]) (up.setStories 3 [7, 8])).session? 5 = some (seat .directory [0x1F, 0x44]) ∧
    0 + 1 < ((desk (seat .directory [0x1F, 0x44]) (up.setStories 3 [7, 8])).viewOf { basket := some 3, top := 0, highlight := 0 }).length := by
  refine ⟨session_editing _ _ _, by decide, by decide, rfl, by rw [text_editing]; decide, by rw [text_editing]; decide, by decide,
    session_desk _ _, room_in_view _ rfl⟩

/-- The PAGE keys in DIRECTORY, UP with room to move, and a movement key in DARK and in REVIEW. -/
theorem test_met_page_keys :
    let v : View := { basket := some spikeBasket, top := 0, highlight := 1 }
    let s := desk { seat .directory [0x1F, 0x43] with view := some v } (up.setStories spikeBasket [7, 8])
    s.session? 5 = some { seat .directory [0x1F, 0x43] with view := some v } ∧ 0 < v.highlight ∧ v.highlight < (s.viewOf v).length ∧
    v.highlight ≤ (s.viewOf v).length - 1 ∧ (s.viewOf v).length ≤ v.highlight + 1 ∧
    headKey [0x1F, 0x43] = some (.code 0x43, []) ∧ headKey [0x1F, 0x44] = some (.code 0x44, []) ∧
    headKey [0x1F, 0x49] = some (.code 0x49, []) ∧ headKey [0x1F, 0x4A] = some (.code 0x4A, []) ∧ (Session.fresh 15).state = .dark ∧
    (desk { seat .review [0x1F, 0x41] with edit := some edit } up).session? 5 = some { seat .review [0x1F, 0x41] with edit := some edit } := by
  refine ⟨session_desk _ _, by decide, ?_, ?_, ?_, by decide, by decide, by decide, by decide, rfl, session_desk _ _⟩ <;> decide

/-- A text byte, DEL-CHAR and DEL-WORD at the first cell and at the story end, in both text modes. -/
theorem test_met_edit_keys :
    let s (fifo : List Byte) := editing [.char 0x41] (seat .edit fifo)
    (s [0x42]).session? 5 = some { seat .edit [0x42] with edit := some edit } ∧
    (s [0x42]).story? 7 = some { story (.held 5) with chain := [0], count := 1 } ∧ StoreForm (s [0x42]) ∧ ChainForm (s [0x42]) 7 ∧
    headKey (seat .edit [0x42]).fifo = some (.text 0x42, []) ∧ headKey (seat .edit [0x20]).fifo = some (.text 0x20, []) ∧
    headKey (seat .edit [0x1F, 0x4B]).fifo = some (.code 0x4B, []) ∧ headKey (seat .edit [0x1F, 0x4C]).fifo = some (.code 0x4C, []) ∧
    edit.cursor < ((s [0x42]).text 7).length ∧ edit.entry = none ∧ edit.overstrike = false ∧ ([0] : List Nat).length < 192 ∧
    1 ≤ (s [0x42]).freeBlockCount ∧ ((s [0x42]).text 7).length ≤ 1 := by
  refine ⟨session_editing _ _ _, story_editing _ _, store_form_editing _ _, chain_form_editing _ _, by decide, by decide, by decide,
    by decide, ?_, rfl, rfl, by decide, by decide, ?_⟩ <;> rw [text_editing] <;> decide

/-- Insertions that find no block: into a full block of a chain of 192, and into a story of no text with no block free; one at the
story end in OVERSTRIKE; and the keys of a session in REVIEW (R89, R94, R95). -/
theorem test_met_edit_refusals :
    let long : Story := { story (.held 5) with chain := List.range' 0 192, count := 255 }
    let ss : Session := { seat .edit [0x42] with edit := some edit }
    let s := desk ss (shelved (some long) (some (story (.held 39))) brim)
    let out := desk ss (stockedAt (.held 5) (.held 39) 0 4096)
    let last : Edit := { edit with cursor := 1, overstrike := true }
    let at' := editing [.char 0x41] { seat .edit [0x42] with edit := some last }
    s.session? 5 = some ss ∧ s.story? 7 = some long ∧ StoreForm s ∧ ChainForm s 7 ∧ long.chain = [] ++ 0 :: List.range' 1 191 ∧
    (chainText s.store []).length ≤ edit.cursor ∧ edit.cursor < (chainText s.store []).length + 64 ∧
    (blockCells s.store 0).length = 64 ∧ 192 ≤ long.chain.length ∧ edit.cursor ≤ (s.text 7).length ∧ out.session? 5 = some ss ∧
    StoreForm out ∧ ChainForm out 7 ∧ out.freeBlockCount = 0 ∧ out.stories spikeBasket = [] ∧ edit.cursor = (out.text 7).length ∧
    (out.story? 7).map Story.chain = some [] ∧ at'.session? 5 = some { seat .edit [0x42] with edit := some last } ∧
    last.cursor = (at'.text 7).length ∧ StoreForm at' ∧ ChainForm at' 7 ∧
    (desk { seat .review [0x42] with edit := some edit } up).session? 5 = some { seat .review [0x42] with edit := some edit } ∧
    headKey [0x1F, 0x4D] = some (.code 0x4D, []) ∧ headKey [0x1F, 0x4E] = some (.code 0x4E, []) := by
  have form : StoreForm (desk { seat .edit [0x42] with edit := some edit }
      (shelved (some { story (.held 5) with chain := List.range' 0 192, count := 255 }) (some (story (.held 39))) brim)) :=
    store_form_brim _ rfl rfl _ rfl rfl
  have full : StoreForm (desk { seat .edit [0x42] with edit := some edit } (stockedAt (.held 5) (.held 39) 0 4096)) :=
    store_form_stockedAt _ _ _ _ _ rfl rfl (Nat.zero_le _) (Nat.le_refl _)
  have own : (desk { seat .edit [0x42] with edit := some edit } (stockedAt (.held 5) (.held 39) 0 4096)).chainOf 7 = [] := by
    simp [State.chainOf, State.story?, desk, State.setLine, stockedAt, shelved]
  refine ⟨session_desk _ _, rfl, form, ⟨form.once 7, fun b hb => (form.owned b).2 ⟨7, hb⟩⟩, by decide +kernel, by decide, by decide,
    by decide +kernel, by decide +kernel, Nat.zero_le _, session_desk _ _, full, ⟨full.once 7, fun b hb => (full.owned b).2 ⟨7, hb⟩⟩, ?_, rfl,
    ?_, ?_, session_desk _ _, by rw [text_editing]; rfl, store_form_editing _ _, chain_form_editing _ _, session_desk _ _,
    by decide, by decide⟩
  · simp [State.freeBlockCount, desk, State.setLine, stockedAt, shelved, blocks]
  · rw [State.text, own]; rfl
  · simp [State.story?, desk, State.setLine, stockedAt, shelved]

/-- A text key in EDIT that takes the block which leaves 63 free; and one that finds none free with a story of blocks at SPIKE's
head, in a story that a session on L8 reviews (R10, R13, R94, R96). -/
theorem test_met_edit_blocks :
    let ss : Session := { seat .edit [0x42] with edit := some edit }
    let watcher : Session := { seat .review [] with edit := some edit }
    let s (p : Place) (n : Nat) := desk ss (stockedAt (.held 5) p 0 n)
    let read : State := (s (.held 39) 4032).setLine 8 { LineRec.powerStart with owner := .terminal watcher }
    (∀ p n, (s p n).session? 5 = some ss ∧ ((s p n).story? 7).map Story.chain = some [] ∧ (s p n).text 7 = []) ∧
    (s (.held 39) 4032).freeBlockCount = 64 ∧ StoreForm (s (.held 39) 4032) ∧ ChainForm (s (.held 39) 4032) 7 ∧
    (s .killed 4096).freeBlockCount = 0 ∧ StoreForm (s .killed 4096) ∧ ChainForm (s .killed 4096) 7 ∧
    (s .killed 4096).stories spikeBasket = [] ++ 9 :: [] ∧ ((s .killed 4096).chainOf 9).length = 4096 ∧ DirectoryForm (s .killed 4096) ∧
    read.session? 8 = some watcher ∧ watcher.state = .review ∧ edit.key.sid = 7 := by
  have free : ∀ p n, (desk { seat .edit [0x42] with edit := some edit } (stockedAt (.held 5) p 0 n)).freeBlockCount = 4096 - n := fun p n => by
    simp [State.freeBlockCount, desk, State.setLine, stockedAt, shelved, blocks]
  have form : ∀ p n, n ≤ 4096 → StoreForm (desk { seat .edit [0x42] with edit := some edit } (stockedAt (.held 5) p 0 n)) := fun p n h =>
    store_form_stockedAt _ _ _ _ _ rfl rfl (Nat.zero_le _) h
  have chain : ∀ p n, (desk { seat .edit [0x42] with edit := some edit } (stockedAt (.held 5) p 0 n)).chainOf 7 = [] := fun p n => by
    simp [State.chainOf, State.story?, desk, State.setLine, stockedAt, shelved]
  refine ⟨fun p n => ⟨session_desk _ _, by simp [State.story?, desk, State.setLine, stockedAt, shelved], by rw [State.text, chain]; rfl⟩,
    free _ _, form _ _ (by decide), ⟨(form _ _ (by decide)).once 7, fun b hb => ((form _ _ (by decide)).owned b).2 ⟨7, hb⟩⟩, free _ _,
    form _ _ (by decide), ⟨(form _ _ (by decide)).once 7, fun b hb => ((form _ _ (by decide)).owned b).2 ⟨7, hb⟩⟩, rfl,
    by simp [State.chainOf, State.story?, desk, State.setLine, stockedAt, shelved], ?_, rfl, rfl, rfl⟩
  refine directory_form_seat { seat .edit [0x42] with edit := some edit } _ _ (blocks 4096) [] _ rfl rfl rfl rfl rfl rfl rfl
    (.inr ⟨⟨by decide, fun b h => (by cases h), rfl⟩, rfl, rfl, fun e h => by cases h; rfl⟩) (.inl ⟨fun st h => ?_, rfl⟩)
  cases h; exact ⟨⟨by decide, fun b h => (by cases h), rfl⟩, rfl⟩

theorem test_met_entry_keys :
    (desk (seat .edit [0x1F, 0x40]) up).session? 5 = some (seat .edit [0x1F, 0x40]) ∧
    headKey (seat .edit [0x1F, 0x40]).fifo = some (.unknown, []) ∧ headKey (seat .edit [0x1F, 0x4D]).fifo = some (.code 0x4D, []) ∧
    headKey (seat .edit [0x1F, 0x57]).fifo = some (.code 0x57, []) ∧ headKey (seat .edit [0x33]).fifo = some (.text 0x33, []) ∧
    headKey (seat .edit [0x34]).fifo = some (.text 0x34, []) ∧ ({ edit with entry := some .priority } : Edit).entry = some .priority :=
  ⟨session_desk _ _, by decide, by decide, by decide, by decide, by decide, rfl⟩

/-- A MARK entry at its letter, its digits and its word space, with values in and out of range, and the keys that cancel it. -/
theorem test_met_mark_entry :
    let ss (typed fifo : List Byte) : Session := { seat .edit fifo with edit := some { edit with entry := some (.mark typed) } }
    (editing [.char 0x41] (ss [] [0x50])).session? 5 = some (ss [] [0x50]) ∧
    (editing [.char 0x41] (ss [] [0x50])).story? 7 = some { story (.held 5) with chain := [0], count := 1 } ∧
    StoreForm (editing [.char 0x41] (ss [] [0x50])) ∧ edit.cursor ≤ ((editing [.char 0x41] (ss [] [0x50])).text 7).length ∧
    1 ≤ (editing [.char 0x41] (ss [] [0x50])).freeBlockCount ∧
    (∀ row ∈ markLetters, toUpper row.1 = row.1 ∧ headKey [row.1] = some (.text row.1, [])) ∧ toUpper 0x73 = 0x53 ∧
    (∀ row ∈ valueLetters, toUpper row.1 = row.1 ∧ headKey [row.1] = some (.text row.1, []) ∧ ([] : List Byte).length < row.2.1) ∧
    ((∀ row ∈ markLetters, toUpper 0x41 ≠ row.1) ∧ toUpper 0x41 ≠ 0x53 ∧ ∀ row ∈ valueLetters, toUpper 0x41 ≠ row.1) ∧
    isDigit 0x39 = true ∧ isDigit 0x41 = false ∧
    (∀ row ∈ valueLetters, (row.2.2.2 (digitsValue [0x31])).isSome = true) ∧
    (∀ row ∈ valueLetters.drop 3, row.2.2.2 (digitsValue [0x30]) = none ∧ row.2.2.2 (digitsValue [0x35]) = none) ∧
    (∀ row ∈ valueLetters.take 3, row.2.2.1 = true ∧ ([0x31] : List Byte).length < row.2.1) ∧ headKey [0x20] = some (.text 0x20, []) ∧
    headKey [0x1F, 0x4B] = some (.code 0x4B, []) ∧ (∀ row ∈ entryKeys, headKey [0x1F, row.2] = some (.code row.2, [])) := by
  refine ⟨session_desk _ _, story_editing _ _, store_form_editing _ _, Nat.zero_le _, by decide, ?_⟩; decide

/-- A SLUG entry with room, full and empty, with story 8 shown on L5 and listed in basket 3 on L8. -/
theorem test_met_slug_entry :
    let ss (typed fifo : List Byte) : Session := { seat .edit fifo with edit := some { edit with entry := some (.slug typed) } }
    let s := (editing [.char 0x41] (ss [0x41] [0x20])).setLine 8 { LineRec.powerStart with owner := .terminal (seat .directory []) }
    let v : View := { basket := some 3, top := 0, highlight := 0 }
    s.session? 5 = some (ss [0x41] [0x20]) ∧ (ss [0x41] [0x20]).shows 7 = true ∧ isNameChar (toUpper 0x61) = true ∧
    (List.replicate 15 (0x41 : Byte)).length < 16 ∧ 16 ≤ (List.replicate 16 (0x41 : Byte)).length ∧ isNameChar (toUpper 0x21) = false ∧
    (0x21 : Byte) ≠ 0x20 ∧ ([0x41] : List Byte) ≠ [] ∧ s.session? 8 = some (seat .directory []) ∧
    (seat .directory []).view = some v ∧ (s.viewOf v)[0]? = some 7 ∧ v.top ≤ 0 ∧ (1 : Fin 24).val = 0 + 1 - v.top := by
  refine ⟨rfl, by decide, by decide, by decide, by decide, by decide, by decide, by decide, rfl, rfl, ?_, by decide, by decide⟩
  show (([] : List Sid) ++ List.filter _ _)[0]? = _
  rw [List.nil_append, ← List.head?_eq_getElem?, List.head?_filter]
  decide +kernel

/-- A PRIORITY entry completed with story 8 listed in row 1 of the session on L8 (R107). -/
theorem test_met_priority_entry :
    let ss : Session := { seat .edit [0x33] with edit := some { edit with entry := some .priority } }
    let s := (editing [.char 0x41] ss).setLine 8 { LineRec.powerStart with owner := .terminal (seat .directory []) }
    let v : View := { basket := some 3, top := 0, highlight := 0 }
    s.session? 5 = some ss ∧ headKey [0x33] = some (.text 0x33, []) ∧ s.session? 8 = some (seat .directory []) ∧
    (seat .directory []).view = some v ∧ (s.viewOf v)[0]? = some 7 ∧ (7 : Sid) ∉ (s.viewOf v).take 0 ∧ (1 : Fin 24).val = 0 + 1 - v.top := by
  refine ⟨rfl, by decide, rfl, rfl, ?_, by rw [List.take_zero]; exact List.not_mem_nil, by decide⟩
  show (([] : List Sid) ++ List.filter _ _)[0]? = _
  rw [List.nil_append, ← List.head?_eq_getElem?, List.head?_filter]
  decide +kernel

/-- A digit that gives a listed story the priority it has marks the story's row (R107). -/
theorem test_priority_marks_the_row :
    let ss : Session := { seat .edit [0x32] with edit := some { edit with entry := some .priority } }
    let other : Session := { seat .directory [] with dirty := Vector.replicate 24 false }
    let s := (editing [.char 0x41] ss).setLine 8 { LineRec.powerStart with owner := .terminal other, holding := some 0 }
    (((s.priorityEntry 5 { edit with entry := some .priority } (.text 0x32)).session? 8).map fun x =>
      x.dirty[(1 : Fin 24)]) = some true := by decide +kernel

/-- A change of the top marks rows 1 to 22 and no other (R75). -/
theorem test_new_top_marks_the_list :
    let ss : Session := { seat .directory [] with dirty := Vector.replicate 24 false }
    let v (top : Nat) : View := { basket := some 3, top := top, highlight := 22 }
    ∀ r : Fin 24, (ss.showView (v 22) (v 21)).dirty[r] = (decide (1 ≤ r.val) && decide (r.val ≤ 22)) := by decide +kernel

/-- Row 0 is marked on the line that holds the story, its session in DIRECTORY on another basket (R157). -/
theorem test_holder_in_directory_is_marked :
    let ss : Session := { seat .directory [] with view := some { basket := some 4, top := 0, highlight := 0 }, dirty := Vector.replicate 24 false }
    let s := desk ss (shelved (some (story (.held 5))) none [])
    ss.shows 7 = false ∧ ((s.markShown 7).session? 5).map (fun x => x.dirty[(0 : Fin 24)]) = some true := by decide +kernel

theorem test_met_new :
    let s := desk (seat .directory [0x1F, 0x4F]) up
    s.session? 5 = some (seat .directory [0x1F, 0x4F]) ∧ headKey (seat .directory [0x1F, 0x4F]).fifo = some (.code 0x4F, []) ∧
    (seat .directory []).profile = some 2 ∧ s.heldBy 5 = none ∧ s.lowestFreeRecord = some 0 ∧
    (desk (seat .directory []) (crowded (.held 5))).heldBy 5 = some 0 ∧
    (desk (seat .directory []) (crowded .intake)).heldBy 5 = none ∧
    (desk (seat .directory []) (crowded .intake)).lowestFreeRecord = none ∧
    (desk (seat .directory []) (crowded .intake)).stories spikeBasket = [] := by
  refine ⟨session_desk _ _, by decide, rfl, ?_, by decide +kernel, by decide +kernel, ?_, ?_, rfl⟩
  · simp [State.heldBy, desk, State.setLine, up, State.reset, State.atPowerStart, Rec.isHeldBy]
  · simp [State.heldBy, desk, State.setLine, crowded, Rec.isHeldBy, story, Place.isHeldBy]
  · simp [State.lowestFreeRecord, desk, crowded]

/-- Every record a KILLED story, with SPIKE's list and a session on L5. -/
def spiked (list : List Sid) : State := desk (seat .directory [0x1F, 0x4F]) ((crowded .killed).setStories spikeBasket list)

theorem spiked_stories (list : List Sid) (b : BasketNo) : (spiked list).stories b = if b = spikeBasket then list else [] := by
  by_cases h : b = spikeBasket
  · subst h; rfl
  · have e : (23 : Nat) ≠ b.val := fun e => h (Fin.ext e.symm)
    rw [if_neg h]
    simp [State.stories, spiked, desk, State.setLine, State.setStories, State.setBasket, crowded, up, State.reset,
      State.atPowerStart, e, spikeBasket]

theorem spiked_story (list : List Sid) (sid : Sid) : (spiked list).story? sid = some (story .killed) := by
  simp [State.story?, spiked, desk, State.setLine, State.setStories, State.setBasket, crowded]

theorem directory_form_spiked (list : List Sid) (all : ∀ sid, sid ∈ list) (once : list.Nodup) : DirectoryForm (spiked list) := by
  have owner : ∀ l : LineNo, ((spiked list).session? l = if l = 5 then some (seat .directory [0x1F, 0x4F]) else none) ∧
      (spiked list).intake? l = none := fun l => desk_owner _ _ rfl l
  refine ⟨⟨fun b sid => ?_, fun b => ?_, fun b hb => ?_, fun sid st h => ?_⟩,
    hold_form _ 0 0 (fun l ss h => ?_) fun x st m h hp => ?_, item_form _ (fun l ik h => ?_) fun x st h => ?_,
    job_form _ (fun ch => by cases ch <;> rfl) fun x st h => ?_,
    alert_form _ fun l ss h => ?_, ⟨fun h => (by cases h), fun h => (by cases h), fun h => (by cases h), fun h => (by cases h)⟩⟩
  · rw [spiked_stories, spiked_story]
    by_cases h : b = spikeBasket
    · simp [h, all, story, Place.basket?]
    · simp [h, story, Place.basket?, Ne.symm h]
  · rw [spiked_stories]; split
    · exact once
    · exact List.nodup_nil
  · rw [spiked_stories, if_neg hb]; exact List.Pairwise.nil
  · rw [spiked_story] at h; cases h; exact ⟨by decide, fun b h => by cases h⟩
  · rw [(owner l).1] at h
    split at h
    · cases h; decide
    · cases h
  · rw [spiked_story] at h; cases h; cases hp
  · rw [(owner l).2] at h; cases h
  · rw [spiked_story] at h; cases h; nofun
  · rw [spiked_story] at h; cases h; rfl
  · rw [(owner l).1] at h
    split at h
    · cases h; rfl
    · cases h

/-- NEW with no record FREE and every record's story in SPIKE (R19, R99). -/
theorem test_met_new_by_purge :
    (spiked (List.finRange 512)).session? 5 = some (seat .directory [0x1F, 0x4F]) ∧ DirectoryForm (spiked (List.finRange 512)) ∧
    (spiked (List.finRange 512)).heldBy 5 = none ∧ (spiked (List.finRange 512)).lowestFreeRecord = none ∧
    (spiked (List.finRange 512)).stories spikeBasket = 0 :: (List.finRange 511).map Fin.succ := by
  refine ⟨session_desk _ _, directory_form_spiked _ List.mem_finRange (List.nodup_finRange 512), ?_, ?_, ?_⟩
  · simp [State.heldBy, spiked, desk, State.setLine, State.setStories, State.setBasket, crowded, Rec.isHeldBy, story, Place.isHeldBy]
  · simp [State.lowestFreeRecord, spiked, desk, State.setLine, State.setStories, State.setBasket, crowded]
  · rw [spiked_stories, if_pos rfl, List.finRange_succ]

/-- An order in hand leaves the directory as it is. -/
theorem directory_form_asked (k : Byte) (body : List Byte) (s : State) (h : DirectoryForm s) (hl : s.loader.loading = false) :
    DirectoryForm (asked k body s) := by
  have never : ¬ (asked k body s).loader.loading = true := by show ¬ s.loader.loading = true; rw [hl]; decide
  exact ⟨⟨h.baskets.listed, h.baskets.once, h.baskets.bands, h.baskets.desks⟩, ⟨h.holds.edits, h.holds.holders, h.holds.once⟩,
    ⟨h.items.items, h.items.apart, h.items.stories⟩,
    ⟨h.jobs.segments, h.jobs.apart, h.jobs.stories, h.jobs.waiting, h.jobs.counted, h.jobs.rest⟩, h.alerts,
    ⟨fun e => absurd e never, fun e => absurd e never, fun e => absurd e never, fun e => absurd e never⟩⟩

/-- STORY CREATE with no record FREE and every record's story in SPIKE (R19, R182). -/
theorem test_met_create_by_purge :
    let s := asked 0x10 (textBytes (ascii "BUDGET") ++ [31, 22, 3]) (spiked (List.finRange 512))
    Front s 0x10 (fr 0x10 (textBytes (ascii "BUDGET") ++ [31, 22, 3])) ∧ s.lowestFreeRecord = none ∧
    s.stories spikeBasket = 0 :: (List.finRange 511).map Fin.succ ∧ DirectoryForm s :=
  ⟨front_asked _ _ _ rfl, test_met_new_by_purge.2.2.2.1, test_met_new_by_purge.2.2.2.2,
    directory_form_asked _ _ _ test_met_new_by_purge.2.1 rfl⟩

theorem test_met_fetch_review :
    let s (p : Place) := desk (seat .directory [0x1F, 0x50])
      { (filed p).setStories 3 [7] with profiles := up.profiles.set 2 { Profile.default 2 with take := 8#23 } }
    (s (.opn 3)).session? 5 = some (seat .directory [0x1F, 0x50]) ∧
    headKey (seat .directory [0x1F, 0x50]).fifo = some (.code 0x50, []) ∧ headKey (seat .directory [0x1F, 0x51]).fifo = some (.code 0x51, []) ∧
    ((s (.opn 3)).viewOf { basket := some 3, top := 0, highlight := 0 })[0]? = some 7 ∧
    (s (.opn 3)).story? 7 = some (story (.opn 3)) ∧ inMask (s (.opn 3)).profiles[(2 : ProfileNo)].take 3 = true ∧
    inMask up.profiles[(2 : ProfileNo)].take 3 = false ∧ (s (.held 39)).story? 7 = some (story (.held 39)) ∧ (39 : LineNo) ≠ 5 ∧
    (story (.opn 3)).reviewers.length < 4 ∧ (5 : LineNo) ∉ (story (.opn 3)).reviewers := by
  refine ⟨session_desk _ _, by decide, by decide, rfl, rfl, by decide, by decide, rfl, by decide, by decide, by decide⟩

/-- FETCH and REVIEW refused: with an empty list, with a story held by the line and by another, with each state that bars the
story, and with four reviewers; and REVIEW of a HELD story (R100, R101). -/
theorem test_met_fetch_review_refused :
    let v : View := { basket := some 3, top := 0, highlight := 0 }
    let s (a : Story) (z : Option Story) := desk (seat .directory [0x1F, 0x50]) { shelved (some a) z [] with profiles := up.profiles }
    let four : Story := { story (.opn 3) with reviewers := [0, 1, 2, 39] }
    let any (may : Bool) : State := { s four none with profiles := up.profiles.set 2 { Profile.default 2 with mayReviewAny := may, watch := 0 } }
    ((desk (seat .directory []) up).viewOf v)[0]? = none ∧ (s (story (.held 5)) none).heldBy 5 = some 7 ∧
    ((s (story (.held 5)) none).viewOf v)[0]? = some 7 ∧ (s (story (.held 5)) (some (story (.opn 3)))).heldBy 5 = some 7 ∧
    ((s (story (.held 5)) (some (story (.opn 3)))).viewOf v)[0]? = some 9 ∧ (9 : Sid) ≠ 7 ∧
    ((s (story (.held 39)) none).viewOf v)[0]? = some 7 ∧ ((s (story (.queued .a 1)) none).viewOf v)[0]? = some 7 ∧
    ((s (story (.setting .b 1)) none).viewOf v)[0]? = some 7 ∧
    ((s (story .killed) none).viewOf { v with basket := some spikeBasket })[0]? = some 7 ∧
    ((s four none).viewOf v)[0]? = some 7 ∧ 4 ≤ four.reviewers.length ∧ (5 : LineNo) ∉ four.reviewers ∧
    (any true).profiles[(2 : ProfileNo)].mayReviewAny = true ∧ (any false).profiles[(2 : ProfileNo)].mayReviewAny = false ∧
    inMask (any false).profiles[(2 : ProfileNo)].take 3 = false ∧ inMask (any false).profiles[(2 : ProfileNo)].watch 3 = false := by
  refine ⟨?_, by decide +kernel, view_head_held _ [] _ rfl rfl rfl (by decide), by decide +kernel, view_head _ 3 9 [] rfl, by decide, view_head_held _ [] _ rfl rfl rfl (by decide),
    view_head_held _ [] _ rfl rfl rfl (by decide), view_head_held _ [] _ rfl rfl rfl (by decide), view_head _ spikeBasket 7 [] rfl, view_head _ 3 7 [] rfl, by decide, by decide, rfl,
    rfl, by decide, by decide⟩
  rw [view_head_out _ rfl, List.find?_eq_none]
  intro sid _
  simp [State.story?, desk, State.setLine, up, State.reset, State.atPowerStart]

/-- FETCH in REVIEW: of a live story, of one whose key is another's, and with a story held by the line (R101). -/
theorem test_met_fetch_in_review :
    let e : Edit := { edit with cursor := 4 }
    let ss : Session := { seat .review [0x1F, 0x50] with edit := some e }
    let s (a : Option Story) (z : Option Story) := desk ss { shelved a z [] with profiles := up.profiles.set 2 { Profile.default 2 with take := 8#23 } }
    (s (some (story (.opn 3))) none).session? 5 = some ss ∧ headKey [0x1F, 0x50] = some (.code 0x50, []) ∧
    (s (some (story (.opn 3))) none).heldBy 5 = none ∧ (s (some (story (.opn 3))) none).live? e.key = some (story (.opn 3)) ∧
    inMask (s none none).profiles[(2 : ProfileNo)].take 3 = true ∧ (s none none).live? e.key = none ∧ (s none none).heldBy 5 = none ∧
    (s (some (story .killed)) none).live? e.key = some (story .killed) ∧
    (s (some (story (.opn 3))) (some (story (.held 5)))).heldBy 5 = some 9 := by
  refine ⟨session_desk _ _, by decide, heldBy_shelved (some (story (.opn 3))) none [] _ 5 rfl ?_ ?_, rfl, rfl, rfl,
    heldBy_shelved none none [] _ 5 rfl ?_ ?_, rfl, by decide +kernel⟩ <;> intro st h <;> cases h <;> rfl

/-- No line holds a story that stands OPEN. -/
theorem heldBy_filed_opn (b : BasketNo) (l : LineNo) : (filed (.opn b)).heldBy l = none := by
  have key : ∀ sid : Sid, (filed (.opn b)).dir[sid].isHeldBy l = false := by
    intro sid
    by_cases h : sid = 7
    · subst h
      exact (congrArg (Rec.isHeldBy l) (filed_dir (.opn b))).trans rfl
    · have : (filed (.opn b)).dir[sid] = { gen := 0, story := none } := by
        have h' : (7 : Nat) ≠ sid.val := fun e => h (Fin.ext e.symm)
        simp [filed, up, State.reset, State.atPowerStart, State.setRec, State.setStories, State.setBasket, h']
      exact congrArg (Rec.isHeldBy l) this
  rw [State.heldBy, List.find?_eq_none]
  intro sid _
  rw [key sid]
  exact Bool.false_ne_true

theorem test_met_story_keys :
    let s (fifo : List Byte) := editing [.space] (seat .edit fifo)
    (s [0x1F, 0x52]).session? 5 = some { seat .edit [0x1F, 0x52] with edit := some edit } ∧
    (s [0x1F, 0x52]).story? 7 = some { story (.held 5) with chain := [0], count := 1 } ∧ (story (.held 5)).home.val ≤ 22 ∧
    headKey (seat .edit [0x1F, 0x52]).fifo = some (.code 0x52, []) ∧ headKey (seat .edit [0x1F, 0x54]).fifo = some (.code 0x54, []) ∧
    headKey (seat .edit [0x1F, 0x55]).fifo = some (.code 0x55, []) ∧ headKey (seat .edit [0x1F, 0x56]).fifo = some (.code 0x56, []) ∧
    (s []).profiles[(2 : ProfileNo)].mayKill = false ∧ (s []).profiles[(2 : ProfileNo)].maySet = false ∧
    ({ Profile.default 2 with mayKill := true, maySet := true } : Profile).maySet = true ∧ (s []).fitQueue = [] ∧
    ((s []).chan .a).state = .offline ∧ ((s []).chan .a).job? = none ∧ ((s []).chan .a).queue.length < 32 ∧
    32 ≤ ((queued .offline (List.replicate 32 (waiting 1)) (s [])).chan .a).queue.length := by
  refine ⟨session_editing _ _ _, story_editing _ _, by decide, by decide, by decide, by decide, by decide, rfl, rfl, rfl, rfl, rfl, rfl,
    by decide, by decide⟩

/-- SET in EDIT on an IDLE channel with no job and with one waiting, and on one that runs a job, its code dwelling. -/
theorem test_met_set_key :
    let ss : Session := { seat .edit [0x1F, 0x55] with edit := some edit }
    let s (z : Option Story) := desk ss { shelved (some (story (.held 5))) z [] with profiles := up.profiles.set 2 { Profile.default 2 with maySet := true } }
    let wait := queued .idle [behind] (s (some (story (.queued .a 5))))
    let busy := running (.dwell (.font 0) 3) (s none)
    (s none).session? 5 = some ss ∧ (s none).story? 7 = some (story (.held 5)) ∧ (s none).profiles[(2 : ProfileNo)].maySet = true ∧
    (s none).profiles[(2 : ProfileNo)].defaultChannel = .a ∧ ((queued .idle [] (s none)).chan .a).state = .idle ∧
    (wait.chan .a).queue = behind :: [] ∧ (wait.chan .a).state = .idle ∧ wait.session? 5 = some ss ∧ DirectoryForm wait ∧
    (busy.chan .a).state ≠ .idle ∧ busy.jobAtRest .a ∧ busy.session? 5 = some ss := by
  refine ⟨session_desk _ _, rfl, rfl, rfl, rfl, rfl, rfl, session_desk _ _, ?_, by show ChanState.running ≠ .idle; decide,
    fun j r _ h => by cases h; trivial, session_desk _ _⟩
  exact directory_form_seat { seat .edit [0x1F, 0x55] with edit := some edit } (story (.held 5)) (some (story (.queued .a 5))) [] [behind] _
    rfl rfl rfl rfl rfl rfl rfl
    (.inr ⟨⟨by decide, fun b h => (by cases h), rfl⟩, rfl, rfl, fun e h => by cases h; rfl⟩)
    (.inr ⟨_, rfl, ⟨by decide, fun b h => (by cases h), rfl⟩, rfl, rfl⟩)

/-- FIT in EDIT and in DIRECTORY, on a story, on one that is KILLED or gone, and on an empty list; with the fit queue empty, with
others in it, with the story in it, and full (R105, R150). -/
theorem test_met_fit_key :
    let v : View := { basket := some 3, top := 0, highlight := 0 }
    let s (st : SessState) (a : Option Story) (q : List FitEntry) : State :=
      { desk { seat st [0x1F, 0x56] with edit := some edit } (shelved a none []) with fitQueue := q }
    let full : List FitEntry := fits 8 :: List.replicate 15 (waits 9)
    let listed (st : Story) := (s .directory (some st) []).setStories 3 [7]
    (∀ st a q, (s st a q).session? 5 = some { seat st [0x1F, 0x56] with edit := some edit } ∧ (s st a q).fitQueue = q ∧
      (s st a q).story? 7 = a) ∧ headKey [0x1F, 0x56] = some (.code 0x56, []) ∧
    (s .edit (some (story (.held 5))) (fits 8 :: [waits 9])).fitting 7 = false ∧ (s .edit none [fits 8, waits 7]).fitting 7 = true ∧
    (s .edit none full).fitting 7 = false ∧ 16 ≤ full.length ∧ ((s .directory (some (story (.opn 3))) []).viewOf v)[0]? = some 7 ∧
    ((listed (story .killed)).viewOf v)[0]? = some 7 ∧ (((s .directory none []).setStories 3 [7]).viewOf v)[0]? = some 7 ∧
    ((s .directory none []).viewOf v)[0]? = none := by
  refine ⟨fun st a q => ⟨session_desk _ _, rfl, shelved_story a none [] _ rfl 7⟩, by decide, by decide, by decide, by decide, by decide,
    view_head _ 3 7 [] rfl, view_head _ 3 7 [] rfl, view_head _ 3 7 [] rfl, ?_⟩
  rw [view_head_out _ rfl, List.find?_eq_none]
  intro sid _ h
  obtain ⟨st, hs, _⟩ := (Option.any_eq_true _ _).1 h
  exact (shelved_cases none none [] _ rfl sid st hs).elim (fun k => by cases k.2) fun k => by cases k.2

/-- The keys that end a review, those that DIRECTORY and EDIT do not take, and a text byte in DIRECTORY (R89, R101). -/
theorem test_met_review_keys :
    let reader (k : Byte) : Session := { seat .review [0x1F, k] with edit := some edit }
    (∀ k, (desk (reader k) (shelved (some { story (.opn 3) with reviewers := [5] }) none [])).session? 5 = some (reader k) ∧
      (reader k).state = .review ∧ (reader k).edit = some edit) ∧
    (∀ row ∈ entryKeys, headKey [0x1F, row.2] = some (.code row.2, [])) ∧
    (∀ k ∈ [(0x4F : Byte), 0x51, 0x52, 0x53, 0x54, 0x55, 0x56, 0x57, 0x58, 0x59, 0x4B, 0x4C, 0x4D, 0x4E], ∃ row ∈ entryKeys, row.2 = k) ∧
    (desk (seat .directory [0x41]) up).session? 5 = some (seat .directory [0x41]) ∧ headKey [0x41] = some (.text 0x41, []) ∧
    (∀ k ∈ [(0x4F : Byte), 0x50, 0x51], headKey [0x1F, k] = some (.code k, [])) ∧
    (editing [.space] (seat .edit [0x1F, 0x4F])).session? 5 = some { seat .edit [0x1F, 0x4F] with edit := some edit } ∧
    (editing [.space] (seat .edit [0x1F, 0x4F])).story? 7 = some { story (.held 5) with chain := [0], count := 1 } :=
  ⟨fun _ => ⟨session_desk _ _, rfl, rfl⟩, by decide, by decide, session_desk _ _, by decide, by decide, session_editing _ _ _, story_editing _ _⟩

/-- SEND's entry with no digit and with one, naming basket 23, basket 24, one in the send mask and one outside it. -/
theorem test_met_send_entry :
    let ss (typed fifo : List Byte) : Session := { seat .edit fifo with edit := some { edit with entry := some (.send typed) } }
    let s (typed fifo : List Byte) :=
      { editing [.char 0x41] (ss typed fifo) with profiles := up.profiles.set 2 { Profile.default 2 with send := 8#23 } }
    (s [] [0x30]).session? 5 = some (ss [] [0x30]) ∧ (s [] [0x30]).story? 7 = some { story (.held 5) with chain := [0], count := 1 } ∧
    (story (.held 5)).home.val ≤ 22 ∧ headKey [0x30] = some (.text 0x30, []) ∧ headKey [0x34] = some (.text 0x34, []) ∧
    23 < ((0x32 : Byte).toNat - 0x30) * 10 + ((0x34 : Byte).toNat - 0x30) ∧
    (23 : BasketNo).val = ((0x32 : Byte).toNat - 0x30) * 10 + ((0x33 : Byte).toNat - 0x30) ∧
    (3 : BasketNo).val = ((0x30 : Byte).toNat - 0x30) * 10 + ((0x33 : Byte).toNat - 0x30) ∧
    inMask (s [] []).profiles[(2 : ProfileNo)].send 3 = true ∧ inMask (s [] []).profiles[(2 : ProfileNo)].send 4 = false ∧
    headKey [0x3A] = some (.text 0x3A, []) ∧ headKey [0x1F, 0x4B] = some (.code 0x4B, []) ∧
    (∀ row ∈ entryKeys, headKey [0x1F, row.2] = some (.code row.2, [])) := by
  refine ⟨session_desk _ _, shelved_story _ _ [(0, [.char 0x41])] _ rfl 7, by decide, ?_⟩; decide

/-- Basket 3 shown under a profile of three baskets, of which 22 is the next and 0 the last; and ACK with an alert. -/
theorem test_met_basket_keys :
    let p : Profile := { Profile.default 2 with take := 0x400009#23, defaultBasket := 3 }
    let s := desk (seat .directory [0x1F, 0x58]) { up with profiles := up.profiles.set 2 p }
    s.session? 5 = some (seat .directory [0x1F, 0x58]) ∧ s.profiles[(2 : ProfileNo)] = p ∧
    p.inView 22 = true ∧ (∀ x : BasketNo, 3 < x → x < 22 → p.inView x = false) ∧ p.inView 0 = true ∧
    (∀ x : BasketNo, 22 < x → p.inView x = false) ∧ (∀ x : BasketNo, x < 0 → p.inView x = false) ∧
    (∀ x : BasketNo, 0 < x → x < 3 → p.inView x = false) ∧ headKey (seat .directory [0x1F, 0x5A]).fifo = some (.code 0x5A, []) ∧
    headKey (seat .directory [0x1F, 0x59]).fifo = some (.code 0x59, []) ∧
    ({ seat .directory [] with alert := some { basket := 3, sid := 7, prio := .flash } } : Session).alert.isSome = true := by
  refine ⟨session_desk _ _, by rfl, ?_⟩; decide

/-! ## States that meet the hypotheses: wire, setters, fits and lines -/

def char (b : Byte) : Option RxChar := some { byte := b, status := .good }

theorem test_met_intake_between :
    ∀ st ∈ [IntakeState.seek, .heading, .skip, .noisy], ∀ b ∈ [(0x01 : Byte), 0x04, 0x20, 0x7E],
      let ik : Intake := { Intake.initial with state := st, handed := [.brk] }
      (circuit ik (char b) up).lines[(6 : LineNo)].owner = .wire ik ∧ ik.state ≠ .body ∧
      (circuit ik (char b) up).lines[(6 : LineNo)].slot = some { byte := b, status := .good } ∧ ik.handed = .brk :: [] := by
  intro st hs b hb
  refine ⟨rfl, ?_, rfl, rfl⟩
  simp at hs
  rcases hs with rfl | rfl | rfl | rfl <;> decide

/-- A damaged character in a heading, the eighth of a run, and one outside a heading; and a control character. -/
theorem test_met_intake_damage :
    let ik (st : IntakeState) (run : Nat) : Intake := { Intake.initial with state := st, errorRun := run }
    let slot (e : CharStatus) : Option RxChar := some { byte := 0x41, status := e }
    (∀ e ∈ [CharStatus.parity, .framing, .overrun],
      (circuit (ik .heading 6) (slot e) up).lines[(6 : LineNo)].slot = some { byte := 0x41, status := e } ∧ e ≠ .good) ∧
    (ik .heading 6).errorRun < 7 ∧ 7 ≤ (ik .heading 7).errorRun ∧ (ik .noisy 0).state ≠ .heading ∧ (0x1F : Byte).toNat < 0x20 ∧
    0x7E < (0x7F : Byte).toNat ∧ ((0x1F : Byte) ≠ 0x01 ∧ (0x1F : Byte) ≠ 0x04 ∧ (0x1F : Byte) ≠ 0x0D ∧ (0x1F : Byte) ≠ 0x0A) ∧
    (circuit (ik .seek 0) (char 0x0D) up).lines[(6 : LineNo)].slot = some { byte := 0x0D, status := .good } := by
  refine ⟨?_, by decide, by decide, by decide, by decide, by decide, by decide, rfl⟩
  intro e he
  simp at he
  rcases he with rfl | rfl | rfl <;> exact ⟨rfl, by decide⟩

/-- An item of the service C in BODY. -/
def itemOf (number run : Nat) (handed : List Handed) : Intake :=
  { Intake.initial with
    state := .body, item := some { key := { sid := 7, gen := 1 }, service := 0x43, number := number }, errorRun := run, handed := handed }

/-- A heading at its CR, with its service accepted, not accepted and invalid, a record FREE and none to be had. -/
theorem test_met_intake_heading :
    let hd : Intake := { Intake.initial with state := .heading, heading := ascii "C20415 harbour strike" }
    (circuit hd (char 0x0D) up).lines[(6 : LineNo)].owner = .wire hd ∧
    (circuit hd (char 0x0D) up).lines[(6 : LineNo)].slot = some { byte := 0x0D, status := .good } ∧
    (readHeading hd.heading).service = some 0x43 ∧ accepts 4#26 0x43 = true ∧ accepts 0#26 0x43 = false ∧
    ((circuit hd (char 0x0D) up).modLine 6 fun r => { r with accept := 4#26 }).lines[(6 : LineNo)].accept = 4#26 ∧
    (readHeading (ascii "*2")).service = none ∧ up.lowestFreeRecord = some 0 ∧
    (circuit hd (char 0x0D) (crowded .intake)).lowestFreeRecord = none ∧
    (circuit hd (char 0x0D) (crowded .intake)).stories spikeBasket = [] := by
  refine ⟨rfl, rfl, by decide, by decide, by decide, rfl, by decide, by decide +kernel, ?_, rfl⟩
  simp [State.lowestFreeRecord, circuit, State.setLine, crowded]

/-- An item in BODY without cells, with a character, a damaged byte, the eighth of a run, and what ends it. -/
theorem test_met_intake_item :
    let s (ik : Intake) (c : Option RxChar) := circuit ik c (shelved (some (story .intake)) (some (story (.held 39))) [])
    let bad : RxChar := { byte := 0x41, status := .parity }
    (s (itemOf 0 0 [.idle]) (char 0x21)).lines[(6 : LineNo)].owner = .wire (itemOf 0 0 [.idle]) ∧
    (s (itemOf 0 0 [.idle]) (char 0x21)).story? 7 = some (story .intake) ∧
    (s (itemOf 0 0 [.idle]) (char 0x21)).lines[(6 : LineNo)].slot = some { byte := 0x21, status := .good } ∧
    StoreForm (s (itemOf 0 0 [.idle]) (char 0x21)) ∧ (story .intake).chain.length < 192 ∧
    65 ≤ (s (itemOf 0 0 [.idle]) (char 0x21)).freeBlockCount ∧
    (s (itemOf 0 6 []) (some bad)).lines[(6 : LineNo)].slot = some bad ∧ bad.status ≠ .good ∧ (itemOf 0 6 []).errorRun < 7 ∧
    7 ≤ (itemOf 0 7 []).errorRun ∧ (s (itemOf 9 7 []) (some bad)).earlierCopies 0x43 9 = [] ∧ StoreForm (s (itemOf 0 7 []) (some bad)) ∧
    (story .intake).count = 0 ∧ (story .intake).chain = [] ∧ (itemOf 0 0 [.brk]).handed = .brk :: [] := by
  have form : ∀ ik c, StoreForm (circuit ik c (shelved (some (story .intake)) (some (story (.held 39))) [])) := fun ik c =>
    store_form (story .intake) (story (.held 39)) [] _ rfl rfl rfl (fun b hb => by cases hb) (fun b => by simp [story])
      (fun b hb => by cases hb) List.nodup_nil List.nodup_nil rfl rfl
  exact ⟨rfl, rfl, rfl, form _ _, by decide, by decide, rfl, by decide, by decide, by decide, rfl, form _ _, rfl, rfl, rfl⟩

/-- An item with cells at the size limit, at the reserve with nothing to reclaim, and with an earlier copy OPEN in WIRE. -/
theorem test_met_intake_ends :
    let full : Story := { story .intake with chain := List.range' 0 192, count := 12288 }
    let last : Story := { story .intake with chain := [0], count := 64 }
    let s := circuit (itemOf 0 0 []) (char 0x21) (shelved (some full) none [(191, List.replicate 64 .space)])
    let low := circuit (itemOf 0 0 []) (char 0x21)
      { shelved (some last) none [] with store := (0, List.replicate 64 .space) :: (blocks 4032).drop 1 }
    let old : Story := { story (.opn wireBasket) with origin := .wire 6 0x43 415 }
    let copy := circuit (itemOf 415 0 []) (char 0x04) (shelved (some { story .intake with count := 1 }) (some old) [])
    s.story? 7 = some full ∧ full.count ≠ 0 ∧ full.chain.getLast? = some 191 ∧ (blockCells s.store 191).length = 64 ∧
    full.chain.length = 192 ∧ low.story? 7 = some last ∧ last.chain.getLast? = some 0 ∧ (blockCells low.store 0).length = 64 ∧
    last.chain.length < 192 ∧ low.freeBlockCount < 65 ∧ low.stories spikeBasket = [] ∧ low.wireCandidates = [] ∧
    (itemOf 0 0 []).item.map Item.number = some 0 ∧ copy.lines[(6 : LineNo)].slot = some { byte := 0x04, status := .good } ∧
    copy.earlierCopies 0x43 415 = [9] ∧ copy.story? 9 = some old ∧ (415 : Nat) ≠ 0 ∧ DirectoryForm copy := by
  refine ⟨rfl, by decide, by decide +kernel, by decide +kernel, by decide +kernel, rfl, rfl, by decide +kernel, by decide, ?_, rfl, rfl,
    rfl, rfl, ?_, rfl, by decide, ?_⟩
  · simp [State.freeBlockCount, circuit, State.setLine, blocks]
  · decide +kernel
  · exact directory_form_circuit _ _ _ _ _ _ _ rfl rfl rfl rfl ⟨by decide, fun b h => (by cases h), rfl⟩
      (fun st h => by cases h; exact ⟨⟨by decide, fun b h => (by cases h; decide), rfl⟩, rfl⟩)

/-- Separators in a body, and characters, a control, and a byte that is none of these; a character that the last block takes, with
each separator before it, and one that needs a block with fewer than 65 free, of which SPIKE's story gives enough (R10, R115). -/
theorem test_met_intake_separators :
    let ik (sep : Sep) (cr : Bool) : Intake := { itemOf 0 0 [] with sep := sep, afterCr := cr }
    let s (st : Story) (store : List Block) (k : Intake) (c : Byte) := circuit k (char c) (shelved (some st) (some (story (.held 39))) store)
    let one : Story := { story .intake with chain := [0], count := 1 }
    let low (c : Byte) := circuit (ik .none false) (char c) (stockedAt .intake .killed 0 4032)
    let isBody (b : Byte) : Prop := (0x21 ≤ b.toNat ∧ b.toNat ≤ 0x7E) ∨ (0x80 ≤ b.toNat ∧ b.toNat ≤ 0x9F)
    (∀ sep cr c, (s one [(0, [.space])] (ik sep cr) c).lines[(6 : LineNo)].owner = .wire (ik sep cr) ∧
      (s one [(0, [.space])] (ik sep cr) c).lines[(6 : LineNo)].slot = some { byte := c, status := .good } ∧
      (s one [(0, [.space])] (ik sep cr) c).story? 7 = some one ∧ StoreForm (s one [(0, [.space])] (ik sep cr) c)) ∧
    (∀ b ∈ [(0x20 : Byte), 0x09, 0x0A, 0x0D, 0x1F, 0x7F, 0xA0, 0xFF], ¬isBody b ∧ b ≠ 0x01 ∧ b ≠ 0x04) ∧
    (∀ b ∈ [(0x21 : Byte), 0x7E, 0x80, 0x9F], isBody b) ∧ one.chain ≠ [] ∧ ¬ 64 < (blockCells [(0, [.space])] (one.chain.getLastD 0)).length + 1 + 1 ∧
    StoreForm (low 0x41) ∧ DirectoryForm (low 0x41) ∧ (low 0x41).freeBlockCount = 64 ∧
    (low 0x41).stories spikeBasket ++ (low 0x41).wireCandidates = [] ++ 9 :: [] ∧ ((low 0x41).chainOf 9).length = 4032 ∧
    ((low 0x41).story? 7).map Story.chain = some [] := by
  have form : ∀ k c, StoreForm (circuit k c (stockedAt .intake .killed 0 4032)) := fun k c =>
    store_form_stockedAt _ _ _ _ _ rfl rfl (by decide) (by decide)
  refine ⟨fun sep cr c => ⟨rfl, rfl, rfl, store_form { story .intake with chain := [0], count := 1 } (story (.held 39)) [(0, [.space])] _ rfl rfl rfl
      (fun b hb => by rw [List.map_singleton, List.mem_singleton] at hb; rw [hb]; exact Nat.zero_lt_succ _)
      (fun b => by simp [story]) (fun b _ => by simp [story]) (List.nodup_singleton 0) List.nodup_nil rfl rfl⟩, ?_, ?_, by decide, by decide, form _ _, ?_, ?_, rfl, ?_, ?_⟩
  · decide
  · decide
  · exact directory_form_circuit _ _ _ _ _ _ _ rfl rfl rfl rfl ⟨by decide, fun b h => (by cases h), rfl⟩
      (fun st h => by cases h; exact ⟨⟨by decide, fun b h => (by cases h), rfl⟩, rfl⟩)
  · simp [State.freeBlockCount, circuit, State.setLine, stockedAt, shelved, blocks]
  · simp [State.chainOf, State.story?, circuit, State.setLine, stockedAt, shelved]
  · simp [State.story?, circuit, State.setLine, stockedAt, shelved]

theorem test_met_flow :
    (press up).boundLine .a = some 7 ∧ (press up).lines[(7 : LineNo)].rx = .assemble ∧ (press up).lines[(7 : LineNo)].slot = none ∧
    ((press up).chan .a).state = .offline ∧ ((press up).chan .a).queue = [] ∧ ((queued .idle [] (press up)).chan .a).state = .idle ∧
    ((running .due (press up)).chan .a).job? = some job ∧ ((running .due (press up)).chan .a).run = some (runIn .due) ∧
    ((running .due (press up)).chan .a).state = .running := ⟨by decide +kernel, rfl, rfl, rfl, rfl, rfl, rfl, rfl, rfl⟩

/-- READY for an OFFLINE channel with a job waiting and for a PAUSED one with its next code waiting; NOT READY while a code's
dwell counts and while the channel waits for staging; FAULT on a channel OFFLINE for a fault (R163). -/
theorem test_met_flow_of_jobs :
    let paused := (runningAs { runIn .due with codes := [.font 3] } (press up)).modChan .a fun c => { c with state := .paused }
    let faulted := (press up).modChan .a fun c => { c with reason := some .fault }
    ((queued .offline [waiting 1] (press up)).chan .a).queue = waiting 1 :: [] ∧
    ((queued .offline [waiting 1] (press up)).chan .a).job? = none ∧ (paused.chan .a).state = .paused ∧
    (paused.chan .a).job? = some job ∧ (paused.chan .a).run = some { runIn .due with codes := [.font 3] } ∧
    paused.lines[(7 : LineNo)].holding = none ∧ Code.font 3 ≠ .cancel ∧ paused.boundLine .a = some 7 ∧
    (runIn (.dwell (.lineEnd 0) 9)).phase ≠ .due ∧ (runIn .due).phase = .due ∧
    ((running .due (press up)).chan .a).run = some (runIn .due) ∧ (faulted.chan .a).state = .offline ∧
    (faulted.chan .a).reason = some .fault := by
  refine ⟨rfl, rfl, rfl, rfl, rfl, rfl, by decide, by decide +kernel, by decide, rfl, rfl, rfl, rfl⟩

theorem test_met_running :
    let s := running (.dwell (.lineEnd 0) 9) (press up)
    (s.chan .a).job? = some job ∧ (s.chan .a).run = some (runIn (.dwell (.lineEnd 0) 9)) ∧ Code.lineEnd 0 ≠ .cancel ∧
    (Code.lineEnd 0).isJobEnd = false ∧ (s.chan .a).cancelPending = false ∧ (s.chan .a).state = .running ∧ (s.chan .a).flow = true ∧
    ({ runIn .due with seg := some 0 } : Run).codes = [] ∧ ¬ 0 < ({ runIn .due with seg := some 0 } : Run).fitSeg ∧
    (s.chan .a).staged = none ∧ s.boundLine .a = some 7 ∧ s.lines[(7 : LineNo)].holding = none ∧ s.lines[(7 : LineNo)].shift = none ∧
    (s.chan .a).queue.tail = [] ∧
    (s.modLine 7 fun r => { r with shift := some { byte := 0, settings := .default } }).lines[(7 : LineNo)].shift.isSome = true ∧
    ((s.modChan .a fun c => { c with cancelPending := true }).chan .a).cancelPending = true ∧
    job.segments[0]? = some { key := { sid := 7, gen := 1 }, measure := 0, depth := 0, column := 0, top := 0 } ∧
    (runIn .due).segs[0]? = some SegRun.start ∧ (runIn .due).formats[0]? = some (.default 0) := by
  refine ⟨rfl, rfl, by decide, rfl, rfl, rfl, rfl, rfl, by decide, rfl, by decide +kernel, rfl, rfl, rfl, rfl, rfl, rfl, rfl, rfl⟩

/-- The code sequence: the codes left of a line, the first segment to open, a line staged, and the segment's last line sent
(R165). -/
theorem test_met_sequence :
    let r (f : Run → Run) := f (runIn (.dwell (.jobStart 1) 9))
    let s (f : Run → Run) := runningAs (r f) (press up)
    let staged : Staged := { segment := 0, codes := [.lineStart 20 0, .lineEnd 9], counts := .zero }
    ((s fun x => { x with codes := [.size 18] }).chan .a).run = some { runIn (.dwell (.jobStart 1) 9) with codes := [.size 18] } ∧
    Code.size 18 ≠ .cancel ∧ (r id).codes = [] ∧ (r id).seg = none ∧ job.page = false ∧
    (r fun x => { x with seg := some 0 }).seg = some 0 ∧
    (((s id).modChan .a fun c => { c with staged := some staged }).chan .a).staged = some staged ∧ staged.segment = 0 ∧
    staged.codes = .lineStart 20 0 :: [.lineEnd 9] ∧ Code.lineStart 20 0 ≠ .cancel ∧
    0 < (r fun x => { x with seg := some 0, fitSeg := 1 }).fitSeg ∧ job.segments[0 + 1]? = none ∧
    (s id).boundLine .a = some 7 ∧ (s id).lines[(7 : LineNo)].holding = none := by
  refine ⟨rfl, by decide, rfl, rfl, rfl, rfl, rfl, rfl, rfl, by decide, by decide, rfl, by decide +kernel, rfl⟩

/-- The fitter has a line of the story's text to stage. -/
theorem test_met_staging :
    (Copies.advance { format := .default 0, widths := zeroWidths } [.char 0x41] Fitter.start).isSome = true ∧
    (let r := { runIn .due with seg := some 0 }
     let s := runningAs r (press (shelved (some { story (.setting .a 1) with chain := [0], count := 1 }) none [(0, [.char 0x41])]))
     (s.chan .a).run = some r ∧ r.phase = .due ∧ r.codes = [] ∧ r.seg = some r.fitSeg ∧ s.boundLine .a = some 7 ∧
      (job.segments.map fun x => s.text x.key.sid)[r.fitSeg]? = some [.char 0x41] ∧ s.lines[(7 : LineNo)].holding = none) := by
  refine ⟨by decide +kernel, rfl, rfl, rfl, rfl, by decide +kernel, by decide +kernel, rfl⟩

theorem test_met_stall :
    let s := (running .due up).setChan .a { (running .due up).chan .a with state := .paused, stallTimer := some 120 }
    (s.chan .a).state = .paused ∧ (s.chan .a).stallTimer.isSome = true ∧ (s.chan .a).job? = some job := ⟨rfl, rfl, rfl⟩

/-- An active fit of the story that a text change spoils, with no request for a story that a purge frees (R152). -/
theorem test_met_spoils :
    (fits 7).active.isSome = true ∧ (∀ e ∈ (fitting [fits 7, waits 9]).fitQueue, e.key.sid ≠ 10) ∧
    Spoils (fitting [fits 7, waits 9])
      (fitting [{ fits 7 with active := some { fitRun with spoiled := true } }, waits 9]) 7 :=
  ⟨rfl, by decide, rfl⟩

theorem test_met_fit_complete :
    (fitting (fits 7 :: [])).fitQueue = { key := { sid := 7, gen := 1 }, active := some fitRun } :: [] ∧
    (fitting (fits 7 :: [])).story? 7 = some (story (.opn 3)) ∧ fitRun.spoiled = false ∧
    ({ fitRun with spoiled := true } : FitRun).spoiled = true ∧ ∀ e ∈ ([] : List FitEntry), e.active = none :=
  ⟨rfl, rfl, rfl, rfl, fun _ h => by cases h⟩

/-- A session with each thing to send in turn: its mode code, the bell, nothing in BLANK, row 23, and the cursor. -/
theorem test_met_sending :
    let clean : Session := { seat .directory [] with modePending := none, dirty := Vector.replicate 24 false }
    (seat .directory []).flight = none ∧ (seat .directory []).codeOut = none ∧ (seat .directory []).modePending = some .normal ∧
    clean.modePending = none ∧ clean.bell = false ∧ clean.mode ≠ .blank ∧ (∀ x : Fin 24, clean.dirty[x] = false) ∧
    ({ clean with dirty := clean.dirty.set 23 true } : Session).dirty[(23 : Fin 24)] = true ∧
    (∀ x : Fin 24, x < 23 → ({ clean with dirty := clean.dirty.set 23 true } : Session).dirty[x] = false) := by
  refine ⟨rfl, rfl, rfl, rfl, rfl, by decide, ?_, rfl, ?_⟩ <;> decide +kernel

/-- A row on its way out with a byte to place, and with its last placed, changed meanwhile or not, alone in the dirty set or not;
and a mode and a cursor code with a byte to place and with none (R78). -/
theorem test_met_sending_ends :
    let copy : RowCopy := .cells (plain (ascii "AB"))
    let ss (n : Nat) (changed : Bool) (dirty : List (Fin 24)) : Session :=
      { seat .edit [] with
        flight := some { row := 4, copy := copy, placed := n, changed := changed }
        dirty := Vector.ofFn fun r => dirty.contains r }
    (rowBytes 4 copy).length = 6 ∧ ((rowBytes 4 copy)[5]?).isSome = true ∧ (ss 5 false []).codeOut = none ∧
    (ss 6 true [4]).flight = some { row := 4, copy := copy, placed := 6, changed := true } ∧
    (ss 6 false [4, 7]).dirty[(7 : Fin 24)] = true ∧ (∀ r : Fin 24, r ≠ 4 → (ss 6 false [4]).dirty[r] = false) ∧
    (∀ k ∈ [CodeKind.mode, .cursor], ∀ rest : List Byte, ({ seat .edit [] with codeOut := some { kind := k, rest := rest, again := true } } : Session).flight = none) := by
  refine ⟨by decide +kernel, by decide +kernel, rfl, rfl, by decide, by decide, fun _ _ _ => rfl⟩

/-! ## Worked examples of the manual -/

def at18 (k : ElemKind) (w : Nat) : Elem :=
  { kind := k, width := w, ctx := { font := 0, size := 18, lead := 20, mode := .justify }, missing := false }

/-- R141's example: a slack of 650 over three gaps, 217, 217 and 216 more than the minimum of 144. The solid width makes up
the measure of 5,760. -/
def threeGaps : Built :=
  { elems := [at18 (.glyph 0x41) 1169, at18 .gap 144, at18 (.glyph 0x41) 1169, at18 .gap 144, at18 (.glyph 0x41) 1170, at18 .gap 144,
      at18 (.glyph 0x41) 1170],
    indent := 0, ending := .width, overlong := false, lone := false, rest := [] }

def newsCopies : Copies := { format := .default 0, widths := zeroWidths }

theorem test_justified_remainder_goes_left :
    (gapsOf ((({ newsCopies with format := { Format.default 0 with measure := 72 } }).setLine .justify threeGaps).elems)).map Elem.width =
      [361, 361, 360] := by decide +kernel

theorem test_met_justified :
    threeGaps.lone = false ∧ gapsOf threeGaps.elems ≠ [] ∧ threeGaps.ending.isLast = false ∧
    0 + solidWidth threeGaps.elems + 3 * 144 ≤ 72 * 80 ∧ 361 ≤ (Format.default 0).maxSpace * 18 := by decide +kernel

/-- A line whose one gap passes its maximum, with a letter gap that takes the excess and with a letterspace limit of 0 (R142). -/
theorem test_met_spaced :
    let b : Built := { threeGaps with elems := [at18 (.glyph 0x41) 2500, at18 (.glyph 0x41) 2500, at18 .gap 144, at18 (.glyph 0x41) 100] }
    let width := 8 * 18 + (72 * 80 - (0 + solidWidth b.elems + 8 * 18))
    let letterGap (i : Nat) : Bool := b.elems[i]?.any Elem.isGlyph && b.elems[i + 1]?.any Elem.isGlyph
    b.lone = false ∧ gapsOf b.elems = [at18 .gap 144] ∧ b.ending.isLast = false ∧ (Format.default 0).minSpace = 8 ∧
    0 + solidWidth b.elems + 8 * 18 ≤ 72 * 80 ∧ 24 * 18 < width ∧ width - 24 * 18 ≤ 1 * 13 * 18 ∧
    (List.range b.elems.length).countP letterGap = 1 ∧ (∀ e ∈ b.elems, e.ctx.size = 18) ∧ ¬ 0 < 0 := by decide +kernel

/-- Text of a line: characters of 20 width units at size 18, 16 to a line of 72 pt. -/
def typed (c : Cell) : TextItem := { cell := c, ctx := { font := 0, size := 18, lead := 20, mode := .justify } }

def letters (n : Nat) : List TextItem := List.replicate n (typed (.char 0x41))

/-- A line of one word with a second that does not fit, with no break position in it and with one; a word that is longer than a
line; a character that is wider than one; and the text that the fitter finds ahead (R134 to R148). -/
theorem test_met_building :
    let c : Copies := { newsCopies with format := { Format.default 0 with measure := 72 } }
    let wide : Copies := { c with widths := Vector.replicate 16 (Vector.replicate 128 63) }
    let big : TextItem := { typed (.char 0x41) with ctx := { font := 0, size := 144, lead := 20, mode := .justify } }
    let first : GapWord := { gap := [], word := letters 4 }
    let next (w : List TextItem) : GapWord := { gap := [typed .space], word := w }
    let broken := letters 3 ++ typed .dhyph :: letters 12
    ProperWords [first] ∧ c.Holds 0 (c.lineOf .justify [first]) ∧ ProperWords [first, next (letters 14)] ∧
    ¬c.Holds 0 (c.lineOf .justify [first, next (letters 14)]) ∧ (∀ led i, ¬BreakAt led (letters 14) i) ∧
    ProperWords [first, next broken] ∧ ¬c.Holds 0 (c.lineOf .justify [first, next broken]) ∧ BreakAt false broken 3 ∧
    c.Holds 0 (c.lineOf .justify [first] ++ c.gapBefore .justify (next broken) ++ c.elems (broken.take 3) ++ [c.glyph 0x2D (typed .dhyph).ctx]) ∧
    (∀ led i, 3 < i → ¬BreakAt led broken i) ∧ c.Holds 0 (c.elems ((letters 20).take 16)) ∧ (∀ k, k ≤ 20 → 16 < k → ¬c.Holds 0 (c.elems ((letters 20).take k))) ∧
    ¬wide.Holds 0 (wide.elems [big]) ∧ (fitText c.format [.space]).map TextItem.cell = [.space] ∧
    (fitText c.format [.space, .para]).map TextItem.cell = [.space, .para] ∧
    (fitText c.format [.char 0x41]).map TextItem.cell = [.char 0x41] := by
  have proper : ∀ gap w : List TextItem, (∀ i ∈ gap, i.cell = .space ∨ i.cell = .dhyph) → w ≠ [] →
      (∀ i ∈ w, i.isChar = true ∨ i.cell ∈ [.en, .em, .thin, .hard, .dhyph]) → (∀ i ∈ w.head?, i.cell ≠ .dhyph) →
      GapWord.Proper { gap := gap, word := w } := fun _ _ h1 h2 h3 h4 => ⟨h1, ⟨h2, h3⟩, h4⟩
  have one : GapWord.Proper { gap := [], word := letters 4 } := proper _ _ (by decide) (by decide) (by decide) (by decide)
  have two : ∀ w : List TextItem, GapWord.Proper { gap := [typed .space], word := w } →
      ProperWords [{ gap := [], word := letters 4 }, { gap := [typed .space], word := w }] := fun w h =>
    ⟨fun x hx => by rcases List.mem_cons.1 hx with rfl | hx; exacts [one, List.mem_singleton.1 hx ▸ h],
      fun x hx => by rw [List.mem_singleton.1 hx]; rfl⟩
  have at' : ∀ (w : List TextItem) (i : Nat), (w[i]?).map TextItem.cell = some .dhyph → i < w.length := fun w i h => by
    rcases Nat.lt_or_ge i w.length with k | k
    · exact k
    · rw [List.getElem?_eq_none k] at h; cases h
  refine ⟨⟨fun x hx => List.mem_singleton.1 hx ▸ one, fun x hx => by cases hx⟩, ?_, two _ (proper _ _ ?_ ?_ ?_ ?_), ?_, ?_,
    two _ (proper _ _ ?_ ?_ ?_ ?_), ?_, ⟨by decide, .inr ⟨typed (.char 0x41), by decide, rfl⟩, typed (.char 0x41), by decide, rfl⟩, ?_, ?_, ?_,
    ?_, ?_, by decide, by decide, by decide⟩
  all_goals first
    | (simp only [Copies.Holds]; decide +kernel)
    | decide
    | skip
  · rintro led i ⟨h, -⟩
    exact (by decide : ∀ i, i < (letters 14).length → ((letters 14)[i]?).map TextItem.cell ≠ some .dhyph) i (at' _ _ h) h
  · rintro led i hi ⟨h, -⟩
    exact (by decide : ∀ i, i < (letters 3 ++ typed .dhyph :: letters 12).length → 3 < i →
      ((letters 3 ++ typed .dhyph :: letters 12)[i]?).map TextItem.cell ≠ some .dhyph) i (at' _ _ h) hi h

/-- Worked by hand from R132 and R136: an indent of 4 ems at size 144 is 23,040 fine units, and the measure of 72 pt is 5,760. The
right quad of a paragraph's empty line is -17,280, and the line measures 5,760. -/
theorem test_empty_line_with_a_wide_indent :
    let c : Copies := { newsCopies with format := { Format.default 0 with measure := 72, indent := 4, size := 144 } }
    let line := (c.advance [.para] Fitter.start).map Prod.fst
    line.map LineRecord.indent = some 23040 ∧ line.map LineRecord.rightQuad = some (-17280) ∧
    line.map LineRecord.escapement = some 5760 := by decide +kernel

/-- 1.3.1: a full block split at local offset 40 leaves 32 cells, and 33 with the character in the new block. -/
theorem test_split_at_40 :
    (splitCells (List.replicate 64 .space) 40 (.char 0x41)).1.length = 32 ∧
    (splitCells (List.replicate 64 .space) 40 (.char 0x41)).2.length = 33 ∧
    (splitCells (List.replicate 64 .space) 40 (.char 0x41)).2[8]? = some (.char 0x41) := by decide

/-- 1.3.1: the 18th deletion leaves 15 cells, which take in the successor's 20, and block 9 is freed. -/
theorem test_merge_at_15 :
    removeCell [(5, List.replicate 32 .space), (9, List.replicate 20 .space), (12, List.replicate 16 .space)] [5, 12, 9] 32 =
      ([(5, List.replicate 32 .space), (12, List.replicate 35 .space)], [5, 12]) := by decide

/-- 6.6.1's heading, its fields placed as R113 and R194 place them, with no space before the item number (log 33). -/
theorem test_heading :
    readHeading (ascii "C20415 harbour strike") =
      { service := some 0x43, prio := .urgent, item := 415, slug := ascii "HARBOUR-STRIKE" } := by decide

/-- A heading with a service in lower case, without a digit in its item field, without a slug and without a service (R113). -/
theorem test_short_headings :
    readHeading (ascii "c1123x storm") = { service := some 0x43, prio := .flash, item := 0, slug := ascii "STORM" } ∧
    readHeading (ascii "C32041 ") = { service := some 0x43, prio := .routine, item := 2041, slug := ascii "C-2041" } ∧
    readHeading (ascii "C3") = { service := some 0x43, prio := .routine, item := 0, slug := ascii "C-0000" } ∧
    (readHeading (ascii "*20001")).service = none ∧ (readHeading []).service = none ∧
    readHeading (ascii "Z10000 a very long slug, of 25") =
      { service := some 0x5A, prio := .flash, item := 0, slug := ascii "A-VERY-LONG-SLUG" } := by decide

/-- 7.5.1: the extra sort 0x85 without a width is set as "?", here without one either: 20 width units. -/
theorem test_missing_glyph : glyphOf zeroWidths 2 0x85 = { code := 0x3F, units := 20, missing := true } := by decide +kernel

/-- Generation 255 is followed by 0 (R18). -/
theorem test_generation_wraps :
    ((up.setRec 7 { gen := 255, story := some (story .killed) }).freeStory 7).dir[(7 : Sid)].gen = 0 := by decide +kernel

/-! ## The image and the settings -/

theorem test_met_settings_legal : SettingsLegal State.reset := by
  refine ⟨?_, ?_, fun ch => by cases ch <;> rfl, rfl, fun l => ?_, ?_, rfl, rfl, ?_⟩
  · decide +kernel
  · intro f; simp [State.reset, State.atPowerStart, zeroWidths]; decide +kernel
  · simp [State.reset, State.atPowerStart]; rfl
  · decide +kernel
  · decide +kernel

/-- The premises of a step that keeps the store: a step from reset, with no command waiting. -/
theorem test_met_store_step :
    SettingsLegal State.reset ∧ StoreForm State.reset ∧ DirectoryForm State.reset ∧ Machine.step State.reset = .next State.reset ∧
    Bounded State.reset ∧ Settled State.reset :=
  ⟨test_met_settings_legal, test_met_store_form, test_met_directory_form, rfl, test_met_bounds, test_met_settled⟩

/-- "The image is VALID ... and the terminals blank after 20 minutes" (12.5.1). -/
theorem test_minimal_image_is_valid : checkImage minimal = .valid := by decide +kernel

theorem test_minimal_image_blanks_after_20 :
    (match exec .imageLoadDone { State.reset with eeprom := minimal } with
      | .next t => t.term.blankTime
      | _ => 0) = 20 := by decide +kernel

/-- "If the host writes 0x0007 into word 18 ... INVALID with reason SUM", and word 15 then needs 0xBBF3 (12.5.1). -/
theorem test_changed_image_needs_its_check_word :
    checkImage (putWord 18 7 minimal) = .sum ∧ checkImage (putWord 15 0xBBF3 (putWord 18 7 minimal)) = .valid := by
  decide +kernel

/-- An image length of 8,193 words fails check 2, and the last word of a section at the image length check 3 (R196). -/
theorem test_image_range_boundaries :
    checkImage (putWord 1 8193 minimal) = .range ∧ checkImage (putWord 16 4 minimal) = .range := by decide +kernel

theorem named_single (entries : List (List Word)) (k : Nat) (e : List Word) (h : entries = [e])
    (hk : e.head?.map BitVec.toNat = some k) : NamedLast entries k e := ⟨[], [], h, hk, fun x hx => by cases hx⟩

theorem image_entry (n size at' len : Nat) (ws entry : List Word) (h1 : sectionAt image n = some at')
    (h2 : sectionLength image at' = len) (h3 : readWords image (at' + 1) len = ws) (h4 : entriesOf size len ws = [entry]) :
    sectionEntries image n size = [entry] := by simp [sectionEntries, h1, h2, h3, h4]

/-- Each section of a VALID image names a thing, and leaves another unnamed (R197). -/
theorem test_met_image_sections :
    let s := { State.reset with eeprom := image }
    s.loader.loading = true ∧ checkImage s.eeprom = .valid ∧
    NamedLast (sectionEntries s.eeprom 2 3) 5 [5, 0x803F, 0x0782] ∧ Unnamed (sectionEntries s.eeprom 2 3) 39 ∧
    NamedLast (sectionEntries s.eeprom 3 5) 22 [22, 0x4E45, 0x5753, 0, 0] ∧ Unnamed (sectionEntries s.eeprom 3 5) 21 ∧
    NamedLast (sectionEntries s.eeprom 4 14) 2 [2, 1234, 0x4E45, 0x5753, 0, 0, 0, 8, 0, 8, 0, 8, 3, 1] ∧
    Unnamed (sectionEntries s.eeprom 4 14) 15 ∧ NamedLast (sectionEntries s.eeprom 5 12) 31 (31 :: List.replicate 11 0xFFFF) ∧
    Unnamed (sectionEntries s.eeprom 5 12) 0 ∧ NamedLast (sectionEntries s.eeprom 6 65) 15 (15 :: List.replicate 64 0xFFFF) ∧
    Unnamed (sectionEntries s.eeprom 6 65) 0 ∧ NamedLast (sectionEntries s.eeprom 7 4) 39 [39, 0x3FF, 0x8000, 30] ∧
    Unnamed (sectionEntries s.eeprom 7 4) 0 ∧
    NamedLast (sectionEntries s.eeprom 8 8) (chanIndex .b) [1, 7, 255, 255, 4095, 255, 255, 600] ∧
    Unnamed (sectionEntries s.eeprom 8 8) (chanIndex .a) ∧ sectionEntries s.eeprom 9 3 = [60, 63, 63] :: [] ∧
    (sectionEntries s.eeprom 10 41).getLast? = some (2 :: List.replicate 40 0xFFFF) ∧ sectionEntries minimal 10 41 = [] ∧
    sectionEntries (putWord 10 0 minimal) 9 3 = [] := by
  have unnamed : ∀ (entries : List (List Word)) k e, entries = [e] → e.head?.map BitVec.toNat ≠ some k → Unnamed entries k :=
    fun entries k e h hk x hx => by rw [h, List.mem_singleton] at hx; exact hx ▸ hk
  have e2 := image_entry 2 3 16 3 [5, 0x803F, 0x0782] [5, 0x803F, 0x0782] (by decide +kernel) (by decide +kernel) (
    by decide +kernel) (by decide +kernel)
  have e3 := image_entry 3 5 20 5 [22, 0x4E45, 0x5753, 0, 0] [22, 0x4E45, 0x5753, 0, 0] (by decide +kernel) (
    by decide +kernel) (by decide +kernel) (by decide +kernel)
  have e4 := image_entry 4 14 26 14 [2, 1234, 0x4E45, 0x5753, 0, 0, 0, 8, 0, 8, 0, 8, 3, 1] [2, 1234, 0x4E45, 0x5753, 0, 0,
    0, 8, 0, 8, 0, 8, 3, 1] (by decide +kernel) (by decide +kernel) (by decide +kernel) (by decide +kernel)
  have e5 := image_entry 5 12 41 12 (31 :: List.replicate 11 0xFFFF) (31 :: List.replicate 11 0xFFFF) (by decide +kernel) (by
    decide +kernel) (by decide +kernel) (by decide +kernel)
  have e6 := image_entry 6 65 54 65 (15 :: List.replicate 64 0xFFFF) (15 :: List.replicate 64 0xFFFF) (by decide +kernel) (by
    decide +kernel) (by decide +kernel) (by decide +kernel)
  have e7 := image_entry 7 4 120 4 [39, 0x3FF, 0x8000, 30] [39, 0x3FF, 0x8000, 30] (by decide +kernel) (by decide +kernel)
    (by decide +kernel) (by decide +kernel)
  have e8 := image_entry 8 8 125 8 [1, 7, 255, 255, 4095, 255, 255, 600] [1, 7, 255, 255, 4095, 255, 255, 600] (
    by decide +kernel) (by decide +kernel) (by decide +kernel) (by decide +kernel)
  have e9 := image_entry 9 3 134 3 [60, 63, 63] [60, 63, 63] (by decide +kernel) (by decide +kernel) (by decide +kernel) (by
    decide +kernel)
  have e10 := image_entry 10 41 138 41 (2 :: List.replicate 40 0xFFFF) (2 :: List.replicate 40 0xFFFF) (by decide +kernel)
    (by decide +kernel) (by decide +kernel) (by decide +kernel)
  exact ⟨rfl, by decide +kernel, named_single _ _ _ e2 (by decide), unnamed _ _ _ e2 (by decide), named_single _ _ _ e3 (by
    decide), unnamed _ _ _ e3 (by decide), named_single _ _ _ e4 (by decide), unnamed _ _ _ e4 (by decide), named_single _ _
    _ e5 (by decide), unnamed _ _ _ e5 (by decide), named_single _ _ _ e6 (by decide), unnamed _ _ _ e6 (by decide),
    named_single _ _ _ e7 (by decide), unnamed _ _ _ e7 (by decide), named_single _ _ _ e8 (by decide), unnamed _ _ _ e8 (by
    decide), e9,
    by rw [e10]; rfl, by decide +kernel, by decide +kernel⟩

end Sys2Proof.Tests
end

/-! Line fitting. What the even shares of a justified line's slack, the cut at the gaps' maxima and the letterspaces do to the
line's elements one by one, and to its width as a whole (R141, R142). -/

namespace Sys2Proof.Machine

/-! ## Gaps set by number -/

@[simp] theorem widthOf_nil : widthOf [] = 0 := rfl

@[simp] theorem widthOf_cons (e : Elem) (l : List Elem) : widthOf (e :: l) = e.width + widthOf l := by simp [widthOf]

theorem solidWidth_cons (e : Elem) (l : List Elem) :
    solidWidth (e :: l) = (if e.isGap then 0 else e.width) + solidWidth l := by
  cases h : e.isGap <;> simp [solidWidth, h]

theorem gapsOf_cons (e : Elem) (l : List Elem) : gapsOf (e :: l) = if e.isGap then e :: gapsOf l else gapsOf l :=
  List.filter_cons

@[simp] theorem setGaps_length (f : Nat → Nat → Nat) (j : Nat) (l : List Elem) : (setGaps f j l).length = l.length := by
  fun_induction setGaps f j l <;> simp_all

/-- Setting the gaps leaves every other element, and gives a gap the width of its number, which is how many stand before it. -/
theorem getElem?_setGaps (f : Nat → Nat → Nat) (j : Nat) (l : List Elem) (i : Nat) :
    (setGaps f j l)[i]? =
      l[i]?.map fun e => if e.isGap then { e with width := f (j + (gapsOf (l.take i)).length) e.ctx.size } else e := by
  fun_induction setGaps f j l generalizing i with
  | case1 => simp
  | case2 j e es he ih => cases i <;> simp [he, ih, gapsOf, Nat.add_comm, Nat.add_left_comm]
  | case3 j e es he ih => cases i <;> simp [he, ih, gapsOf_cons]

theorem gapsSet_setGaps (f : Nat → Nat → Nat) (l : List Elem) : GapsSet l (setGaps f 0 l) fun j e => f j e.ctx.size :=
  ⟨setGaps_length f 0 l, fun i e he => by rw [getElem?_setGaps, he]; simp⟩

theorem map_isGlyph_setGaps (f : Nat → Nat → Nat) (j : Nat) (l : List Elem) :
    (setGaps f j l).map Elem.isGlyph = l.map Elem.isGlyph := by
  fun_induction setGaps f j l <;> simp_all [Elem.isGlyph]

theorem gapsOf_setGaps (f : Nat → Nat → Nat) (j : Nat) (l : List Elem) :
    gapsOf (setGaps f j l) = (gapsOf l).mapIdx fun i e => { e with width := f (j + i) e.ctx.size } := by
  fun_induction setGaps f j l with
  | case1 => rfl
  | case2 j e es he ih =>
    have hk : ({ e with width := f j e.ctx.size } : Elem).isGap = true := he
    simp [gapsOf_cons, he, hk, ih, List.mapIdx_cons, Nat.add_comm, Nat.add_left_comm]
  | case3 j e es he ih => simp [gapsOf_cons, he, ih]

/-- A line whose gaps take a width of their own, a share alike and one unit more for the gaps numbered below `r`. -/
theorem widthOf_setGaps_share (own : Nat → Nat) (q r j : Nat) (l : List Elem) :
    widthOf (setGaps (fun j s => own s + q + if j < r then 1 else 0) j l) =
      solidWidth l + ((gapsOf l).map fun e => own e.ctx.size).sum + (gapsOf l).length * q +
        min (r - j) (gapsOf l).length := by
  induction l generalizing j with
  | nil => simp [setGaps, solidWidth, gapsOf]
  | cons e es ih =>
    cases he : e.isGap
    · simp [setGaps, solidWidth_cons, gapsOf_cons, he, ih]; omega
    · simp only [setGaps, solidWidth_cons, gapsOf_cons, he, ih, if_true, widthOf_cons, List.map_cons, List.sum_cons,
        List.length_cons, Nat.add_mul]
      split <;> omega

theorem widthOf_setGaps_own (own : Nat → Nat) (l : List Elem) :
    widthOf (setGaps (fun _ s => own s) 0 l) = solidWidth l + ((gapsOf l).map fun e => own e.ctx.size).sum := by
  simpa using widthOf_setGaps_share own 0 0 0 l

/-! ## Letter gaps -/

/-- The element at a place and the one after it are neighbouring characters (R135). -/
def letterGapAt (l : List Elem) (i : Nat) : Bool := l[i]?.any Elem.isGlyph && l[i + 1]?.any Elem.isGlyph

theorem letterGapAt_congr {l l' : List Elem} (h : l'.map Elem.isGlyph = l.map Elem.isGlyph) :
    letterGapAt l' = letterGapAt l := by
  have at' (i : Nat) : l'[i]?.any Elem.isGlyph = l[i]?.any Elem.isGlyph := by
    simpa [Option.any_map] using congrArg (fun m => m[i]?.any id) h
  funext i
  rw [letterGapAt, letterGapAt, at', at']

@[simp] theorem letterGapAt_cons_succ (e : Elem) (l : List Elem) (i : Nat) :
    letterGapAt (e :: l) (i + 1) = letterGapAt l i := by simp [letterGapAt]

theorem countP_letterGapAt_cons (e : Elem) (l : List Elem) (n : Nat) :
    (List.range (n + 1)).countP (letterGapAt (e :: l)) =
      (if letterGapAt (e :: l) 0 then 1 else 0) + (List.range n).countP (letterGapAt l) := by
  rw [List.range_succ_eq_map, List.countP_cons, List.countP_map, Nat.add_comm,
    show letterGapAt (e :: l) ∘ Nat.succ = letterGapAt l from funext (letterGapAt_cons_succ e l)]

/-- A list with no two elements at its front, which the model's walks over letter gaps leave as it is. -/
theorem eq_nil_or_singleton {l : List Elem} (h : ∀ a b es, l = a :: b :: es → False) : l = [] ∨ ∃ a, l = [a] :=
  match l, h with
  | [], _ => .inl rfl
  | [a], _ => .inr ⟨a, rfl⟩
  | a :: b :: es, h => (h a b es rfl).elim

theorem letterGaps_eq_countP (l : List Elem) : letterGaps l = (List.range l.length).countP (letterGapAt l) := by
  fun_induction letterGaps l with
  | case1 a b es ih =>
    rw [List.length_cons, countP_letterGapAt_cons, ← ih]
    simp [letterGapAt]
  | case2 l h => obtain rfl | ⟨a, rfl⟩ := eq_nil_or_singleton h <;> simp [letterGapAt]

theorem letterGaps_congr {l l' : List Elem} (h : l'.map Elem.isGlyph = l.map Elem.isGlyph) : letterGaps l' = letterGaps l := by
  have hl : l'.length = l.length := by simpa using congrArg List.length h
  rw [letterGaps_eq_countP, letterGaps_eq_countP, letterGapAt_congr h, hl]

@[simp] theorem letterspace_length (q r : Nat) (l : List Elem) : (letterspace q r l).length = l.length := by
  fun_induction letterspace q r l <;> simp_all

/-- Letterspacing leaves every element but the left characters of letter gaps, of which the first `r` take the unit more. -/
theorem getElem?_letterspace (q r : Nat) (l : List Elem) (i : Nat) :
    (letterspace q r l)[i]? = l[i]?.map fun e =>
      if letterGapAt l i then
        { e with width := e.width + q + if (List.range i).countP (letterGapAt l) < r then 1 else 0 }
      else e := by
  fun_induction letterspace q r l generalizing i with
  | case1 r a b es h ih =>
    have h0 : letterGapAt (a :: b :: es) 0 = true := by simpa [letterGapAt] using h
    cases i with
    | zero => simp [h0]; rfl
    | succ i =>
      have lt (k : Nat) : 1 + k < r ↔ k < r - 1 := by omega
      simp only [List.getElem?_cons_succ, ih, letterGapAt_cons_succ, countP_letterGapAt_cons, h0, if_true, lt]
  | case2 r a b es h ih =>
    have h0 : letterGapAt (a :: b :: es) 0 = false := by simpa [letterGapAt] using h
    cases i with
    | zero => simp [h0]
    | succ i => simp [ih, countP_letterGapAt_cons, h0]
  | case3 r l h =>
    obtain rfl | ⟨a, rfl⟩ := eq_nil_or_singleton h
    · simp
    · cases i <;> simp [letterGapAt]

theorem widthOf_letterspace (q r : Nat) (l : List Elem) :
    widthOf (letterspace q r l) = widthOf l + letterGaps l * q + min r (letterGaps l) := by
  fun_induction letterspace q r l with
  | case1 r a b es h ih =>
    simp only [widthOf_cons, ih, letterGaps, h, if_true, Nat.add_mul]
    split <;> omega
  | case2 r a b es h ih => simp [ih, letterGaps, h]; omega
  | case3 r l h => obtain rfl | ⟨a, rfl⟩ := eq_nil_or_singleton h <;> simp [letterGaps]

/-! ## The excess, and gaps cut to their maximum -/

/-- A gap cut to its maximum (R142). -/
def Format.capGap (f : Format) (e : Elem) : Elem :=
  if e.isGap then { e with width := Nat.min e.width (f.maxSpace * e.ctx.size) } else e

theorem map_isGlyph_capGap (f : Format) (l : List Elem) : (l.map f.capGap).map Elem.isGlyph = l.map Elem.isGlyph := by
  rw [List.map_map]
  refine List.map_congr_left fun e _ => ?_
  simp only [Function.comp, Format.capGap]
  split <;> rfl

theorem excess_cons (f : Format) (e : Elem) (l : List Elem) :
    excess f (e :: l) = (if e.isGap then e.width - f.maxSpace * e.ctx.size else 0) + excess f l := by
  cases he : e.isGap <;> simp [excess, gapsOf_cons, he]

/-- What the cut takes from a line is the excess (R142). -/
theorem widthOf_capGap_add_excess (f : Format) (l : List Elem) : widthOf (l.map f.capGap) + excess f l = widthOf l := by
  induction l with
  | nil => rfl
  | cons e es ih =>
    have cut : (f.capGap e).width + (if e.isGap then e.width - f.maxSpace * e.ctx.size else 0) = e.width := by
      cases he : e.isGap
      · simp [Format.capGap, he]
      · simpa [Format.capGap, he] using (Nat.add_comm _ _).trans (Nat.sub_add_min_cancel e.width (f.maxSpace * e.ctx.size))
    rw [List.map_cons, widthOf_cons, widthOf_cons, excess_cons]
    omega

theorem excess_setGaps (fm : Format) (f : Nat → Nat → Nat) (l : List Elem) :
    excess fm (setGaps f 0 l) = ((List.range (gapsOf l).length).map fun j =>
      (gapsOf l)[j]?.elim 0 fun e => f j e.ctx.size - fm.maxSpace * e.ctx.size).sum := by
  rw [excess, gapsOf_setGaps]
  congr 1
  refine List.ext_getElem (by simp) fun j h _ => ?_
  have hj : j < (gapsOf l).length := by simpa using h
  simp [List.getElem?_eq_getElem hj]

/-- There is no excess when no gap passes its maximum, and only then. -/
theorem excess_setGaps_eq_zero_iff (fm : Format) (f : Nat → Nat → Nat) (l : List Elem) :
    excess fm (setGaps f 0 l) = 0 ↔ ∀ j e, (gapsOf l)[j]? = some e → f j e.ctx.size ≤ fm.maxSpace * e.ctx.size := by
  rw [excess_setGaps, List.sum_eq_zero_iff, List.forall_mem_map]
  constructor
  · intro h j e he
    have hj : j < (gapsOf l).length := (List.getElem?_eq_some_iff.1 he).1
    simpa [he, Nat.sub_eq_zero_iff_le] using h j (List.mem_range.2 hj)
  · intro h j _
    cases he : (gapsOf l)[j]? with
    | none => rfl
    | some e => exact Nat.sub_eq_zero_of_le (h j e he)

/-! ## The justified line -/

/-- A line with elements has one size when they all have that of the first. -/
theorem oneSize_and_iff {l : List Elem} (hl : l ≠ []) (P : Nat → Prop) :
    (oneSize l = true ∧ P (l.head?.elim 0 fun e => e.ctx.size)) ↔ ∃ size, (∀ e ∈ l, e.ctx.size = size) ∧ P size := by
  obtain ⟨e, es, rfl⟩ := List.exists_cons_of_ne_nil hl
  constructor
  · rintro ⟨h, hP⟩
    exact ⟨e.ctx.size, by simpa [oneSize] using h, hP⟩
  · rintro ⟨size, h, hP⟩
    obtain rfl := h e (by simp)
    exact ⟨by simpa [oneSize] using h, hP⟩

/-- The slack of R141. -/
def Copies.slack (c : Copies) (indent : Nat) (l : List Elem) : Nat :=
  c.measure - (indent + solidWidth l + ((gapsOf l).map fun e => c.format.minSpace * e.ctx.size).sum)

/-- The width that R141 gives the gap of a number and a size. -/
def Copies.gapShare (c : Copies) (indent : Nat) (l : List Elem) (j size : Nat) : Nat :=
  c.format.minSpace * size + c.slack indent l / (gapsOf l).length +
    if j < c.slack indent l % (gapsOf l).length then 1 else 0

/-- The elements of a line with its gaps at their shares. -/
def Copies.evenLine (c : Copies) (indent : Nat) (l : List Elem) : List Elem := setGaps (c.gapShare indent l) 0 l

/-- The excess of a line's shares over its gaps' maxima, X of R142. -/
def Copies.shareExcess (c : Copies) (indent : Nat) (l : List Elem) : Nat := excess c.format (c.evenLine indent l)

/-- The line's size, its limit and its letter gaps let it take the excess as letterspace (R142). -/
def Copies.MaySpace (c : Copies) (indent : Nat) (l : List Elem) : Prop :=
  ∃ size, (∀ e ∈ l, e.ctx.size = size) ∧ 0 < c.format.letterspace ∧ 0 < letterGaps l ∧
    c.shareExcess indent l ≤ letterGaps l * c.format.letterspace * size

/-- The elements of a line with its gaps cut and the excess given to its letter gaps. -/
def Copies.spacedLine (c : Copies) (indent : Nat) (l : List Elem) : List Elem :=
  letterspace (c.shareExcess indent l / letterGaps l) (c.shareExcess indent l % letterGaps l)
    ((c.evenLine indent l).map c.format.capGap)

section
variable {c : Copies} {indent : Nat} {l : List Elem}

theorem Copies.justify_of_no_excess (hx : c.shareExcess indent l = 0) : c.justify indent l = (c.evenLine indent l, false) :=
  if_pos hx

theorem Copies.justify_of_excess (hl : l ≠ []) (hx : c.shareExcess indent l ≠ 0) :
    (c.MaySpace indent l → c.justify indent l = (c.spacedLine indent l, false)) ∧
    (¬c.MaySpace indent l → c.justify indent l = (c.evenLine indent l, true)) := by
  have hm := oneSize_and_iff hl fun size => 0 < c.format.letterspace ∧ 0 < letterGaps l ∧
    c.shareExcess indent l ≤ letterGaps l * c.format.letterspace * size
  exact ⟨fun h => (if_neg hx).trans (if_pos (hm.2 h)), fun h => (if_neg hx).trans (if_neg fun h' => h (hm.1 h'))⟩

/-- The shares give out the whole slack (R141). -/
theorem Copies.widthOf_evenLine (hg : gapsOf l ≠ [])
    (room : indent + solidWidth l + ((gapsOf l).map fun e => c.format.minSpace * e.ctx.size).sum ≤ c.measure) :
    indent + widthOf (c.evenLine indent l) = c.measure := by
  have hw := widthOf_setGaps_share (c.format.minSpace * ·) (c.slack indent l / (gapsOf l).length)
    (c.slack indent l % (gapsOf l).length) 0 l
  have hr := Nat.mod_lt (c.slack indent l) (List.length_pos_iff.2 hg)
  have hd := Nat.div_add_mod (c.slack indent l) (gapsOf l).length
  have hs : c.slack indent l =
    c.measure - (indent + solidWidth l + ((gapsOf l).map fun e => c.format.minSpace * e.ctx.size).sum) := rfl
  have even : widthOf (c.evenLine indent l) = _ := hw
  rw [even, Nat.sub_zero, min_eq_left hr.le]
  omega

theorem map_isGlyph_capped : ((c.evenLine indent l).map c.format.capGap).map Elem.isGlyph = l.map Elem.isGlyph :=
  (map_isGlyph_capGap _ _).trans (map_isGlyph_setGaps _ _ _)

/-- The letter gaps take back all that the cut gaps lose (R142). -/
theorem Copies.widthOf_spacedLine (hn : 0 < letterGaps l) :
    widthOf (c.spacedLine indent l) = widthOf (c.evenLine indent l) := by
  have hr := Nat.mod_lt (c.shareExcess indent l) hn
  calc widthOf (c.spacedLine indent l)
      = widthOf ((c.evenLine indent l).map c.format.capGap) +
          (letterGaps l * (c.shareExcess indent l / letterGaps l) + c.shareExcess indent l % letterGaps l) := by
        rw [Copies.spacedLine, widthOf_letterspace, letterGaps_congr map_isGlyph_capped, min_eq_left hr.le, Nat.add_assoc]
    _ = widthOf ((c.evenLine indent l).map c.format.capGap) + c.shareExcess indent l := by rw [Nat.div_add_mod]
    _ = widthOf (c.evenLine indent l) := widthOf_capGap_add_excess _ _

theorem Copies.spacedLine_length : (c.spacedLine indent l).length = l.length := by
  simp [Copies.spacedLine, Copies.evenLine]

/-- A letterspaced line, element by element: a gap is cut, the left character of a letter gap takes its share of the excess, and
the others stand (R142). -/
theorem Copies.getElem?_spacedLine {i : Nat} {e : Elem} (he : l[i]? = some e) :
    (c.spacedLine indent l)[i]? = some
      { e with
        width :=
          if e.isGap then Nat.min (c.gapShare indent l (gapsOf (l.take i)).length e.ctx.size) (c.format.maxSpace * e.ctx.size)
          else if letterGapAt l i then
            e.width + c.shareExcess indent l / letterGaps l +
              (if (List.range i).countP (letterGapAt l) < c.shareExcess indent l % letterGaps l then 1 else 0)
          else e.width } := by
  rw [Copies.spacedLine, getElem?_letterspace, letterGapAt_congr map_isGlyph_capped, List.getElem?_map, Copies.evenLine,
    getElem?_setGaps, he]
  cases hg : e.isGap
  · cases hi : letterGapAt l i <;> simp [Format.capGap, hg]
  · have hk : e.isGlyph = false := by
      have : e.kind = .gap := by simpa [Elem.isGap] using hg
      simp [Elem.isGlyph, this]
    have hi : letterGapAt l i = false := by simp [letterGapAt, he, hk]
    have hc : ∀ w, ({ e with width := w } : Elem).isGap = true := fun _ => hg
    simp [Format.capGap, hg, hi, hc]

/-- A justified line fills the measure (R141, R142). -/
theorem Copies.widthOf_justify (hg : gapsOf l ≠ [])
    (room : indent + solidWidth l + ((gapsOf l).map fun e => c.format.minSpace * e.ctx.size).sum ≤ c.measure) :
    indent + widthOf (c.justify indent l).1 = c.measure := by
  have hl : l ≠ [] := by rintro rfl; exact hg rfl
  have even := Copies.widthOf_evenLine hg room
  by_cases hx : c.shareExcess indent l = 0
  · rwa [Copies.justify_of_no_excess hx]
  by_cases hs : c.MaySpace indent l
  · rw [(Copies.justify_of_excess hl hx).1 hs]
    obtain ⟨_, -, -, hn, -⟩ := hs
    rwa [Copies.widthOf_spacedLine hn]
  · rwa [(Copies.justify_of_excess hl hx).2 hs]

end

/-- A JUSTIFY line with gaps is justified, unless it is a last line that its optimum spaces fit (R144). -/
theorem Copies.setLine_justify {c : Copies} {b : Built} (lone : b.lone = false) (hg : gapsOf b.elems ≠ [])
    (last : ¬(b.ending.isLast = true ∧
      b.indent + solidWidth b.elems + ((gapsOf b.elems).map fun e => c.format.optSpace * e.ctx.size).sum ≤ c.measure)) :
    c.setLine .justify b =
      { elems := (c.justify b.indent b.elems).1, left := 0, right := 0, loose := (c.justify b.indent b.elems).2 } := by
  rw [Nat.add_assoc, ← widthOf_setGaps_own] at last
  simp only [Copies.setLine, lone, List.isEmpty_iff, hg, Bool.and_eq_true, decide_eq_true_eq, last, if_false,
    Bool.false_eq_true]

/-- Settles O58: the cases are those of R142, no excess, an excess that the letter gaps take, and one that they do not. -/
theorem justifiedLinesFillTheMeasure : Obligations.JustifiedLinesFillTheMeasure := by
  intro c b gaps sum slack width most excess letterGap letters spaced line lone hg last room
  have hl : b.elems ≠ [] := fun h => hg (by simp only [gaps, h]; rfl)
  have hline : line = _ := Copies.setLine_justify lone hg last
  have hexcess : c.shareExcess b.indent b.elems = excess := excess_setGaps _ _ _
  have hletters : letterGaps b.elems = letters := letterGaps_eq_countP _
  have hspaced : c.MaySpace b.indent b.elems ↔ spaced := by rw [Copies.MaySpace, hexcess, hletters]
  have hzero := excess_setGaps_eq_zero_iff c.format (c.gapShare b.indent b.elems) b.elems
  have even : GapsSet b.elems (c.evenLine b.indent b.elems) width := gapsSet_setGaps _ _
  rw [hline]
  refine ⟨rfl, rfl, Copies.widthOf_justify hg room, fun within => ?_, fun ⟨j, e, he, past⟩ => ?_⟩
  · rw [Copies.justify_of_no_excess (hzero.2 within)]
    exact ⟨rfl, even⟩
  have hx : c.shareExcess b.indent b.elems ≠ 0 := fun h => absurd (hzero.1 h j e he) (Nat.not_le.2 past)
  have branches := Copies.justify_of_excess hl hx
  refine ⟨fun hs => ?_, fun hs => ?_⟩
  · rw [branches.2 fun h => hs (hspaced.1 h)]
    exact ⟨rfl, even⟩
  · rw [branches.1 (hspaced.2 hs)]
    refine ⟨rfl, Copies.spacedLine_length, fun i e he => ?_⟩
    rw [Copies.getElem?_spacedLine he, hexcess, hletters]
    rfl

end Sys2Proof.Machine

/-! The orders of the EEPROM. An order whose work spans EEPROM transfers is taken or refused when it is at the front (R178, R179);
IMAGE READ's bounds and the bytes of its answer (R200). -/

namespace Sys2Proof.Machine

/-! ## Orders whose work spans EEPROM transfers -/

/-- An order whose check gives its work is taken, and stays in hand (R178). -/
theorem beginWork_takes {s : State} {k : Byte} {f : Frame} (h : Front s k f) {check : List Byte → Option Work} {w : Work}
    (e : check f.body = some w) :
    Reaches (beginWork k check s) { s with host := { s.host with active := some { frame := f, work := w } } } := by
  simp only [beginWork, h.next, h.kind, h.tag, e, if_true, if_false]
  exact reaches_ended _ _

/-- An order whose check gives no work is refused (R179). -/
theorem beginWork_refuses {s : State} {k : Byte} {f : Frame} (h : Front s k f) {check : List Byte → Option Work}
    (e : check f.body = none) : Reaches (beginWork k check s) (s.answered f .badArgument []) := by
  simp only [beginWork, h.next, h.kind, h.tag, e, if_true, if_false, Answer.reply_answered]
  exact reaches_ended _ _

/-! ## IMAGE READ -/

theorem imageRangeOk_iff (first count : Nat) :
    imageRangeOk first count = true ↔ (1 ≤ count ∧ count ≤ 256) ∧ first + count ≤ 8192 := by
  simp [imageRangeOk, within]

theorem imageRangeOk_eq_false_iff (first count : Nat) :
    imageRangeOk first count = false ↔ count = 0 ∨ 256 < count ∨ 8192 < first + count := by
  rw [← Bool.not_eq_true, imageRangeOk_iff]
  omega

/-- The bytes of words read, two for each word in ascending order, high byte first (R189, R200). -/
theorem bytesOfWords_readWords (e : List (Nat × Word)) (first count : Nat) :
    bytesOfWords (readWords e first count) = (List.range count).flatMap fun i => wordBytes (eepromWord e (first + i)) :=
  List.flatMap_map ..

/-- IMAGE READ begins its work or is refused by its bounds alone (R200). -/
theorem exec_imageRead {s : State} {f : Frame} {f1 f2 c1 c2 : Byte} (h : Front s 0x40 f) (hb : f.body = [f1, f2, c1, c2]) :
    (imageRangeOk (ofBE16 f1 f2) (ofBE16 c1 c2) = true → Reaches (exec .imageRead s)
      { s with
        host := { s.host with active := some { frame := f, work := .imageRead (ofBE16 f1 f2) (ofBE16 c1 c2) } } }) ∧
    (imageRangeOk (ofBE16 f1 f2) (ofBE16 c1 c2) = false →
      Reaches (exec .imageRead s) (s.answered f .badArgument [])) := by
  simp only [exec, execImageRead]
  constructor <;> intro ok
  · exact beginWork_takes h (by simp [hb, ok])
  · exact beginWork_refuses h (by simp [hb, ok])

/-- The words read are the answer to the order in hand (R200). -/
theorem exec_imageReadDone {s : State} {f : Frame} {first count : Nat}
    (h : s.host.active = some { frame := f, work := .imageRead first count }) :
    Reaches (exec .imageReadDone s) (s.answered f .done (bytesOfWords (readWords s.eeprom first count))) := by
  simp only [exec, execImageReadDone, h, Answer.reply_answered]
  exact reaches_ended _ _

/-- Settles O37: the taking of the order splits by its bounds, and its end answers with the words read. -/
theorem imageReadAnswersWithTheWords : Obligations.ImageReadAnswersWithTheWords := by
  intro s f
  refine ⟨fun f1 f2 c1 c2 front body => ⟨fun least most last => ?_, fun out => ?_⟩, fun first count active => ?_⟩
  · exact (exec_imageRead front body).1 ((imageRangeOk_iff _ _).2 ⟨⟨least, most⟩, last⟩)
  · exact (exec_imageRead front body).2 ((imageRangeOk_eq_false_iff _ _).2 out)
  · have answer := exec_imageReadDone active
    rw [bytesOfWords_readWords] at answer
    exact answer

end Sys2Proof.Machine
